-- ==== Sys2Proof/Word.lean ====
section
/-! DEFINITION. The word types of the QR core: 8-bit bytes and fields (00_scope.md R7), 32-bit command
words and register words (R5), 13-bit host byte offsets (20_memory.md R60). Every value is unsigned. -/

namespace Sys2Proof

/-- An 8-bit field, buffer byte or GF(256) element. -/
abbrev Byte := BitVec 8

/-- A 32-bit command word or register word. -/
abbrev Word := BitVec 32

/-- A host byte offset, 0x0000 to 0x1FFF (20_memory.md R60). -/
abbrev Offset := BitVec 13

end Sys2Proof
end

