-- ==== Sys2Proof/Config.lean ====
section
/-! DEFINITION. What an instance fixes when it is built (00_scope.md R6, 92_eei_decisions.md D36), and
the free values of the spec (93_implementation_defined.md U2). P_LATENCY has no value here: no rule
depends on it, and it shows only as the place of the core's turn among the host's events (log entry 5). -/

namespace Sys2Proof

/-- P_OVERSIZE_POLICY (R6, D11). -/
inductive OversizePolicy where
  | error
  | truncate
  deriving DecidableEq, Repr

/-- P_GEN_MODE (R6, D14). -/
inductive GenMode where
  | generic
  | legacyHoles
  deriving DecidableEq, Repr

/-- P_SEPARATORS (R6, D18). -/
inductive Separators where
  | reserved
  | none
  deriving DecidableEq, Repr

/-- The three behaviour parameters of R6, fixed per instance. -/
structure Params where
  oversize   : OversizePolicy
  genMode    : GenMode
  separators : Separators
  deriving DecidableEq, Repr

/-- The defaults "this hardware takes" (R6). -/
def Params.default : Params :=
  { oversize := .error, genMode := .generic, separators := .reserved }

/-- FREE VALUE (20_memory.md R68, U2): what the n-th read of anything but STATUS made while GENERATING
returns. It has no body, so nothing can be proved about any of its values (log entry 3). -/
opaque Config.freeRead : Nat → Word

end Sys2Proof
end

