-- ==== Sys2Proof/Syntax.lean ====
section
/-! DEFINITION. The commands: one constructor per row of spec/opcode_table.json (30_encoding.md R92).
Operands are the unsigned fields of R96: A and B are 8 bits, the GFEXP index is 9 bits. -/

namespace Sys2Proof

inductive Instr where
  /-- R290 -/
  | nop
  /-- R288 -/
  | generate
  /-- R293 -/
  | softreset
  /-- R296 -/
  | clrerr
  /-- R122 -/
  | selver
  /-- R123, A = requested version -/
  | setver (a : Byte)
  /-- R142 -/
  | bitstream
  /-- R166 -/
  | gfmul (a b : Byte)
  /-- R167, idx = CMD[16:8] -/
  | gfexp (idx : BitVec 9)
  /-- R168 -/
  | gflog (a : Byte)
  /-- R169, A = degree n, B = position j -/
  | gfgen (n j : Byte)
  /-- R171, A = ECC count n, B = number of data bytes k -/
  | rsenc (n k : Byte)
  /-- R200 -/
  | cleargrid
  /-- R205 -/
  | finder
  /-- R207 -/
  | timing
  /-- R210 -/
  | align
  /-- R212 -/
  | rsvfmt
  /-- R214 -/
  | format
  /-- R251 -/
  | place
  /-- R270 -/
  | mask
  deriving DecidableEq, Repr

end Sys2Proof
end

