-- ==== Sys2Proof/WellFormed.lean ====
section
/-! DEFINITION. Well-formed commands. The operand widths of R96 are the types of Instr's fields, so every
Instr is well-formed. What can be ill-formed is the host program's text of a command (30_encoding.md
R98): a mnemonic must be one of R92's, in upper case, with the operands its format reads (R91), each in
the range of its field: "An operand outside the range of its field is an assembly error and produces no
word." Here is that check, and the assembler that answers an Instr exactly when it passes. -/

namespace Sys2Proof

/-- The text of one command line of R98, after the word CMD: a mnemonic and its operands as numbers. -/
structure AsmCmd where
  mnemonic : String
  operands : List Nat
  deriving DecidableEq, Repr

/-- A command's operand formats (30_encoding.md R91). -/
inductive Format where
  /-- no operand -/
  | F0
  /-- A -/
  | FA
  /-- A and B -/
  | FAB
  /-- the 9-bit index -/
  | FAB1
  deriving DecidableEq, Repr

/-- The largest value plus one of each operand a format takes in the text of R98, in order. -/
def Format.bounds : Format → List Nat
  | .F0 => []
  | .FA => [256]
  | .FAB => [256, 256]
  | .FAB1 => [512]

/-- The format of each mnemonic (R92); none where R92 has no such mnemonic. -/
def formatOfMnemonic : String → Option Format
  | "NOP" => some .F0
  | "GENERATE" => some .F0
  | "SOFTRESET" => some .F0
  | "CLRERR" => some .F0
  | "SELVER" => some .F0
  | "SETVER" => some .FA
  | "BITSTREAM" => some .F0
  | "GFMUL" => some .FAB
  | "GFEXP" => some .FAB1
  | "GFLOG" => some .FA
  | "GFGEN" => some .FAB
  | "RSENC" => some .FAB
  | "CLEARGRID" => some .F0
  | "FINDER" => some .F0
  | "TIMING" => some .F0
  | "ALIGN" => some .F0
  | "RSVFMT" => some .F0
  | "FORMAT" => some .F0
  | "PLACE" => some .F0
  | "MASK" => some .F0
  | _ => none

/-- The operands are as many as the format takes, each below its bound. -/
def operandsFit : List Nat → List Nat → Bool
  | [], [] => true
  | b :: bs, x :: xs => decide (x < b) && operandsFit bs xs
  | _, _ => false

/-- The check of R98 on one command's text. -/
def AsmCmd.wellFormed (c : AsmCmd) : Bool :=
  match formatOfMnemonic c.mnemonic with
  | none => false
  | some f => operandsFit f.bounds c.operands

/-- The command a mnemonic with fitting operands stands for. -/
def instrOfText : String → List Nat → Option Instr
  | "NOP", [] => some .nop
  | "GENERATE", [] => some .generate
  | "SOFTRESET", [] => some .softreset
  | "CLRERR", [] => some .clrerr
  | "SELVER", [] => some .selver
  | "SETVER", [a] => some (.setver (BitVec.ofNat 8 a))
  | "BITSTREAM", [] => some .bitstream
  | "GFMUL", [a, b] => some (.gfmul (BitVec.ofNat 8 a) (BitVec.ofNat 8 b))
  | "GFEXP", [i] => some (.gfexp (BitVec.ofNat 9 i))
  | "GFLOG", [a] => some (.gflog (BitVec.ofNat 8 a))
  | "GFGEN", [n, j] => some (.gfgen (BitVec.ofNat 8 n) (BitVec.ofNat 8 j))
  | "RSENC", [n, k] => some (.rsenc (BitVec.ofNat 8 n) (BitVec.ofNat 8 k))
  | "CLEARGRID", [] => some .cleargrid
  | "FINDER", [] => some .finder
  | "TIMING", [] => some .timing
  | "ALIGN", [] => some .align
  | "RSVFMT", [] => some .rsvfmt
  | "FORMAT", [] => some .format
  | "PLACE", [] => some .place
  | "MASK", [] => some .mask
  | _, _ => none

/-- The assembler of R98: an ill-formed text produces nothing. -/
def AsmCmd.assemble (c : AsmCmd) : Option Instr :=
  if c.wellFormed then instrOfText c.mnemonic c.operands else none

end Sys2Proof
end

