-- ==== Sys2Proof/Decode.lean ====
section
/-! DEFINITION. Decoding a command word (30_encoding.md R90-R96): total on any 32-bit word, rejecting by
name, a pure function of the word (R93). After it the encoder, written from the same layout (R90, R98),
and the opcode map as a list of mask and match rows (R92). -/

namespace Sys2Proof

/-- Why a word is illegal: the two cases of R94. Either way the command completes with ILLEGAL_CMD. -/
inductive DecodeError where
  /-- w[7:0] is no OP of R92 -/
  | unassignedOpcode
  /-- the opcode is assigned but a bit its format requires to be 0 is 1 -/
  | reservedBits
  deriving DecidableEq, Repr

/-- OP = CMD[7:0] (R90). -/
def opField (w : Word) : Byte := w.extractLsb' 0 8

/-- A = CMD[15:8] (R90, R96). -/
def aField (w : Word) : Byte := w.extractLsb' 8 8

/-- B = CMD[23:16] (R90, R96). -/
def bField (w : Word) : Byte := w.extractLsb' 16 8

/-- idx = {CMD[16], CMD[15:8]} (R96). -/
def idxField (w : Word) : BitVec 9 := w.extractLsb' 8 9

/-- The bits a format does not read, which must be 0 (R91). -/
def Format.mustBeZero : Format → Word
  | .F0 => 0xFFFFFF00#32
  | .FA => 0xFFFF0000#32
  | .FAB => 0xFF000000#32
  | .FAB1 => 0xFFFE0000#32

/-- A format's mask of fixed bits: its must-be-zero bits and the opcode (R91). -/
def Format.mask : Format → Word
  | .F0 => 0xFFFFFFFF#32
  | .FA => 0xFFFF00FF#32
  | .FAB => 0xFF0000FF#32
  | .FAB1 => 0xFFFE00FF#32

/-- An assigned opcode of format `f` decodes to `i`, unless a must-be-zero bit is 1 (R93, R94). -/
def decodeAs (f : Format) (w : Word) (i : Instr) : Except DecodeError Instr :=
  if w &&& f.mustBeZero = 0#32 then .ok i else .error .reservedBits

/-- The decoder (R92, R93, R94). -/
def decode (w : Word) : Except DecodeError Instr :=
  match (opField w).toNat with
  | 0x00 => decodeAs .F0 w .nop
  | 0x01 => decodeAs .F0 w .generate
  | 0x02 => decodeAs .F0 w .softreset
  | 0x03 => decodeAs .F0 w .clrerr
  | 0x10 => decodeAs .F0 w .selver
  | 0x11 => decodeAs .FA w (.setver (aField w))
  | 0x20 => decodeAs .F0 w .bitstream
  | 0x30 => decodeAs .FAB w (.gfmul (aField w) (bField w))
  | 0x31 => decodeAs .FAB1 w (.gfexp (idxField w))
  | 0x32 => decodeAs .FA w (.gflog (aField w))
  | 0x33 => decodeAs .FAB w (.gfgen (aField w) (bField w))
  | 0x34 => decodeAs .FAB w (.rsenc (aField w) (bField w))
  | 0x40 => decodeAs .F0 w .cleargrid
  | 0x41 => decodeAs .F0 w .finder
  | 0x42 => decodeAs .F0 w .timing
  | 0x43 => decodeAs .F0 w .align
  | 0x44 => decodeAs .F0 w .rsvfmt
  | 0x45 => decodeAs .F0 w .format
  | 0x50 => decodeAs .F0 w .place
  | 0x60 => decodeAs .F0 w .mask
  | _ => .error .unassignedOpcode

/-- A format F0 word: the opcode, every other bit 0 (R90, R91). -/
def wordF0 (op : Byte) : Word := 0#24 ++ op

/-- A format FA word: OP + 256*A (R90, R98). -/
def wordFA (op a : Byte) : Word := (0#16 ++ a : BitVec 24) ++ op

/-- A format FAB word: OP + 256*A + 65536*B (R90, R98). -/
def wordFAB (op a b : Byte) : Word := ((0#8 ++ b : BitVec 16) ++ a : BitVec 24) ++ op

/-- A format FAB1 word: OP + 256*(idx mod 256) + 65536*(idx div 256) (R96, R98). -/
def wordFAB1 (op : Byte) (idx : BitVec 9) : Word := (0#15 ++ idx : BitVec 24) ++ op

/-- The encoder: the word of each command (R90-R92, R98). -/
def encode : Instr → Word
  | .nop => wordF0 0x00#8
  | .generate => wordF0 0x01#8
  | .softreset => wordF0 0x02#8
  | .clrerr => wordF0 0x03#8
  | .selver => wordF0 0x10#8
  | .setver a => wordFA 0x11#8 a
  | .bitstream => wordF0 0x20#8
  | .gfmul a b => wordFAB 0x30#8 a b
  | .gfexp idx => wordFAB1 0x31#8 idx
  | .gflog a => wordFA 0x32#8 a
  | .gfgen n j => wordFAB 0x33#8 n j
  | .rsenc n k => wordFAB 0x34#8 n k
  | .cleargrid => wordF0 0x40#8
  | .finder => wordF0 0x41#8
  | .timing => wordF0 0x42#8
  | .align => wordF0 0x43#8
  | .rsvfmt => wordF0 0x44#8
  | .format => wordF0 0x45#8
  | .place => wordF0 0x50#8
  | .mask => wordF0 0x60#8

/-- One row of the opcode map (R92): a mnemonic, its OP and its format. -/
structure OpcodeRow where
  mnemonic : String
  op       : Byte
  format   : Format
  deriving DecidableEq, Repr

/-- match = OP (R93). -/
def OpcodeRow.pattern (r : OpcodeRow) : Word := wordF0 r.op

/-- Whether a word matches a row: w AND mask = match (R93). -/
def OpcodeRow.matches (r : OpcodeRow) (w : Word) : Bool := w &&& r.format.mask == r.pattern

/-- The opcode map, row by row (R92). -/
def opcodeMap : List OpcodeRow :=
  [ ⟨"NOP", 0x00#8, .F0⟩, ⟨"GENERATE", 0x01#8, .F0⟩, ⟨"SOFTRESET", 0x02#8, .F0⟩, ⟨"CLRERR", 0x03#8, .F0⟩,
    ⟨"SELVER", 0x10#8, .F0⟩, ⟨"SETVER", 0x11#8, .FA⟩, ⟨"BITSTREAM", 0x20#8, .F0⟩,
    ⟨"GFMUL", 0x30#8, .FAB⟩, ⟨"GFEXP", 0x31#8, .FAB1⟩, ⟨"GFLOG", 0x32#8, .FA⟩, ⟨"GFGEN", 0x33#8, .FAB⟩,
    ⟨"RSENC", 0x34#8, .FAB⟩, ⟨"CLEARGRID", 0x40#8, .F0⟩, ⟨"FINDER", 0x41#8, .F0⟩, ⟨"TIMING", 0x42#8, .F0⟩,
    ⟨"ALIGN", 0x43#8, .F0⟩, ⟨"RSVFMT", 0x44#8, .F0⟩, ⟨"FORMAT", 0x45#8, .F0⟩, ⟨"PLACE", 0x50#8, .F0⟩,
    ⟨"MASK", 0x60#8, .F0⟩ ]

/-- The mnemonic of a command, as R92 spells it. -/
def Instr.mnemonic : Instr → String
  | .nop => "NOP"
  | .generate => "GENERATE"
  | .softreset => "SOFTRESET"
  | .clrerr => "CLRERR"
  | .selver => "SELVER"
  | .setver _ => "SETVER"
  | .bitstream => "BITSTREAM"
  | .gfmul _ _ => "GFMUL"
  | .gfexp _ => "GFEXP"
  | .gflog _ => "GFLOG"
  | .gfgen _ _ => "GFGEN"
  | .rsenc _ _ => "RSENC"
  | .cleargrid => "CLEARGRID"
  | .finder => "FINDER"
  | .timing => "TIMING"
  | .align => "ALIGN"
  | .rsvfmt => "RSVFMT"
  | .format => "FORMAT"
  | .place => "PLACE"
  | .mask => "MASK"

/-- The word an opcode-table row's bits stand for. Every command is one 32-bit word (R90), numbered as
the table numbers it; bits above `nbits` are 0. -/
def tableWord (nbits w : Nat) : Word := BitVec.ofNat 32 (w % 2 ^ nbits)

/-- What the decoder reads from a table word; none where it refuses. -/
def decodeTableWord (nbits w : Nat) : Option Instr :=
  match decode (tableWord nbits w) with
  | .ok i => some i
  | .error _ => none

end Sys2Proof
end

