-- ==== Sys2Proof/Machine/State.lean ====
section
/-! DEFINITION. The state of the block (10_state.md R20), the events that reach it (20_memory.md R71), the
reasons a step can stop, and the state right after reset (10_state.md R37). Plain data throughout.

The registers and flags are fields. INBUF, CWBUF, MODULES and ISFUNC stand in one memory over the host's
byte offsets (R61): INBUF[i] at 0x100 + i, CWBUF[i] at 0x200 + i, and cell (r, c) at 0x1000 + 64r + c as
the byte {000000, ISFUNC, MODULES} that the GRID window shows (R64). CMD holds no value (R21). -/

namespace Sys2Proof.Machine

/-- STATUS.STATE (10_state.md R23): 0 IDLE, 1 GENERATING, 2 READY. Encoding 3 is never produced. -/
inductive Lifecycle where
  | idle
  | generating
  | ready
  deriving DecidableEq, Repr

/-- The error codes 1 to 5 (60_exceptions.md R310). Codes 6 to 15 are never produced. -/
inductive Err where
  | dataTooLarge
  | unsupportedEcc
  | illegalCmd
  | badVersion
  | badOperand
  deriving DecidableEq, Repr

/-- The STATUS register's fields (10_state.md R22); `err = none` is ERR = 0 (NONE). -/
structure Status where
  state   : Lifecycle
  ovr     : Bool
  lasterr : Bool
  err     : Option Err
  deriving DecidableEq, Repr

/-- The SYMINFO register's fields (10_state.md R26). -/
structure SymInfo where
  version     : Byte
  moduleCount : Byte
  dataCw      : Byte
  eccCw       : Byte
  deriving DecidableEq, Repr

/-- Memory: addresses strictly rising, no entry equal to what an unlisted address reads as. -/
abbrev Memory := List Host.Cell

/-- One host access to the bus (20_memory.md R62): 8 or 32 bits, read or write. -/
inductive Access where
  | rd8  (off : Offset)
  | rd32 (off : Offset)
  | wr8  (off : Offset) (v : Byte)
  | wr32 (off : Offset) (v : Word)
  deriving DecidableEq, Repr

/-- The bus's answer to one access: the error response of R69, and the data a read returns (the byte of
an 8-bit read zero-extended; 0 for a write and on a bus error). -/
structure BusResponse where
  error : Bool
  data  : Word
  deriving DecidableEq, Repr

/-- One event of the total order of 20_memory.md R71. -/
inductive Event where
  /-- one host access (R4, R70) -/
  | host  (a : Access)
  /-- the core agent's turn: its completion step if one is enabled (R4, R281) -/
  | core
  /-- the reset event, with the bytes INBUF and CWBUF then hold (R340, R341) -/
  | reset (inbuf cwbuf : Vector Byte 256)
  deriving DecidableEq, Repr

/-- The state. The last three fields are the model's own, not the spec's: the events to come, the bus's
answer to the latest host access, and how many free values have been drawn (log entries 1, 11, 3). -/
structure State where
  params   : Params
  status   : Status
  syminfo  : SymInfo
  len      : Byte
  qz       : Byte
  result   : Byte
  curCmd   : Option Word
  mem      : Memory
  events   : List Event
  response : Option BusResponse
  draws    : Nat
  deriving DecidableEq, Repr

/-- What one command's pseudocode leaves: the state it wrote, and the error it raised, if any (R10). -/
structure CmdResult where
  state : State
  err   : Option Err
  deriving DecidableEq, Repr

/-- Why the machine stops. -/
inductive Fault where
  /-- Raised by the core's turn (Machine/Completion.lean) when STATE = GENERATING and CUR_CMD holds no
  command. No run reaches such a state (10_state.md R35; log entry 7), so it is safe. -/
  | noCommandLatched
  deriving DecidableEq, Repr

/-- Why an instruction is refused. -/
inductive Refusal where
  /-- Raised by exec's arms for an instruction that has no meaning yet. No arm raises it any more. Safe. -/
  | notModelled (mnemonic : String)
  deriving DecidableEq, Repr

/-- STATUS after reset (R37). -/
def Status.reset : Status := { state := .idle, ovr := false, lasterr := false, err := none }

/-- SYMINFO with every field 0: "no symbol" (R26, R37). -/
def SymInfo.none : SymInfo := { version := 0#8, moduleCount := 0#8, dataCw := 0#8, eccCw := 0#8 }

/-- The machine right after reset (10_state.md R37): every register and flag as the spec's table says,
the default parameters (R6), the grid 0. The 512 bytes the spec leaves unspecified read 0 here (DESIGN
CHOICE, log entry 2); the reset event takes any contents for them. -/
def State.reset : State :=
  { params := Params.default
    status := Status.reset
    syminfo := SymInfo.none
    len := 0#8
    qz := 4#8
    result := 0#8
    curCmd := Option.none
    mem := []
    events := []
    response := Option.none
    draws := 0 }

end Sys2Proof.Machine
end

