-- ==== Sys2Proof/Machine/Ops.lean ====
section
/-! DEFINITION. The named operations over memory and registers that every meaning shares: the sparse
memory, the arrays in it (10_state.md R30-R32), the grid cells (20_memory.md R64), SYMINFO as a word, how
a command raises an error (00_scope.md R10, 60_exceptions.md R311), and how it completes
(47_sequencer.md R281, R282). An error is this block's whole exception: nothing is saved, no vector is
taken (R317), so `CmdResult.complete` is the one shared operation of taking it, and there is no return
from it (R318). -/

namespace Sys2Proof.Machine

/-! ### The sparse memory -/

/-- What an address that is not listed reads as: 0. For grid cells it is the reset value (R37); for INBUF
and CWBUF it is the model's choice for State.reset (log entry 2). -/
abbrev Memory.unlisted : Byte := 0#8

/-- The byte at an address. -/
def Memory.read : Memory → Nat → Byte
  | [], _ => Memory.unlisted
  | (b, v) :: m, a => if b = a then v else Memory.read m a

/-- The memory without any entry for an address. -/
def Memory.erase (m : Memory) (a : Nat) : Memory := m.filter (fun c => c.1 != a)

/-- Lists a byte at its place in the rising order. -/
def Memory.insertAt : Memory → Nat → Byte → Memory
  | [], a, v => [(a, v)]
  | c :: m, a, v => if a < c.1 then (a, v) :: c :: m else c :: Memory.insertAt m a v

/-- Stores one byte, keeping the canonical form. -/
def Memory.write (m : Memory) (a : Nat) (v : Byte) : Memory :=
  if v = Memory.unlisted then Memory.erase m a else Memory.insertAt (Memory.erase m a) a v

/-- Stores bytes at rising addresses from `a`, in order. -/
def Memory.writeBytes : Memory → Nat → List Byte → Memory
  | m, _, [] => m
  | m, a, v :: vs => Memory.writeBytes (Memory.write m a v) (a + 1) vs

/-- The canonical form: addresses strictly rising, no entry equal to what an unlisted address reads as. -/
def Memory.wf (m : Memory) : Bool :=
  decide (m.Pairwise (fun c d => c.1 < d.1)) && m.all (fun c => c.2 != Memory.unlisted)

/-! ### The arrays -/

/-- INBUF[0] (R61, R65). -/
abbrev inbufBase : Nat := 0x100

/-- CWBUF[0] (R61, R65). -/
abbrev cwbufBase : Nat := 0x200

/-- Cell (0, 0) of the GRID window (R61, R64). -/
abbrev gridBase : Nat := 0x1000

/-- The physical grid's side (00_scope.md R5). -/
abbrev gridDim : Nat := 37

/-- INBUF[i] (10_state.md R30). -/
def Memory.inbuf (m : Memory) (i : Nat) : Byte := m.read (inbufBase + i)

/-- CWBUF[i] (10_state.md R31). -/
def Memory.cwbuf (m : Memory) (i : Nat) : Byte := m.read (cwbufBase + i)

/-- CWBUF[k..] <- bytes. -/
def Memory.setCwbuf (m : Memory) (k : Nat) (bytes : List Byte) : Memory :=
  m.writeBytes (cwbufBase + k) bytes

/-- A cell the block has: r < 37 and c < 37 (20_memory.md R64). -/
def backed (r c : Nat) : Bool := decide (r < gridDim) && decide (c < gridDim)

/-- The offset of cell (r, c) (R64). -/
def cellAddr (r c : Nat) : Nat := gridBase + 64 * r + c

/-- The byte {000000, ISFUNC, MODULES} (R64). -/
def cellByte (dark func : Bool) : Byte := BitVec.ofNat 8 (2 * func.toNat + dark.toNat)

/-- MODULES[r][c] = 1 (10_state.md R32). -/
def Memory.dark (m : Memory) (r c : Nat) : Bool := backed r c && (m.read (cellAddr r c)).getLsbD 0

/-- ISFUNC[r][c] = 1 (10_state.md R32). -/
def Memory.func (m : Memory) (r c : Nat) : Bool := backed r c && (m.read (cellAddr r c)).getLsbD 1

/-- MODULES[r][c] <- dark; ISFUNC[r][c] <- func. A cell the block does not have is ignored (R64). -/
def Memory.setCell (m : Memory) (r c : Nat) (dark func : Bool) : Memory :=
  if backed r c then m.write (cellAddr r c) (cellByte dark func) else m

/-- MODULES[r][c] <- dark, ISFUNC kept. -/
def Memory.setDark (m : Memory) (r c : Nat) (dark : Bool) : Memory :=
  m.setCell r c dark (m.func r c)

/-- The cells (r, c) with r, c in 0..n-1, row by row. -/
def squareCells (n : Nat) : List (Nat × Nat) :=
  (List.range n).flatMap (fun r => (List.range n).map (fun c => (r, c)))

/-! ### SYMINFO as a word -/

/-- The SYMINFO register's value (10_state.md R26). -/
def SymInfo.word (y : SymInfo) : Word :=
  (y.eccCw ++ y.dataCw : BitVec 16) ++ (y.moduleCount ++ y.version : BitVec 16)

/-! ### How a command's pseudocode ends -/

/-- The pseudocode runs to its end. -/
def done (s : State) : CmdResult := { state := s, err := none }

/-- `raise Err(e)` (00_scope.md R10, 60_exceptions.md R311): the pseudocode stops here. -/
def raise (e : Err) (s : State) : CmdResult := { state := s, err := some e }

/-- What follows in the pseudocode runs only if no error was raised (R311). -/
def CmdResult.andThen (r : CmdResult) (f : State → CmdResult) : CmdResult :=
  match r.err with
  | none => f r.state
  | some _ => r

/-- need_version() (47_sequencer.md R284): BAD_VERSION if SYMINFO.VERSION = 0, else the rest. -/
def needVersion (s : State) (rest : CmdResult) : CmdResult :=
  if s.syminfo.version = 0#8 then raise .badVersion s else rest

/-- STATUS on completion (47_sequencer.md R282; 10_state.md R25): LASTERR tells of this command, ERR keeps
the first error, STATE becomes READY, OVR is not changed. -/
def Status.complete (t : Status) (err : Option Err) : Status :=
  match err with
  | none => { t with lasterr := false, state := .ready }
  | some e => { t with lasterr := true, err := some (t.err.getD e), state := .ready }

/-- Steps 2 and 3 of the completion step (R281): what the command left, STATUS by R282, CUR_CMD cleared.
Raising an error and succeeding both end here; it is the only "exception entry" the block has (R317). -/
def CmdResult.complete (r : CmdResult) : State :=
  { r.state with status := r.state.status.complete r.err, curCmd := none }

/-- The outcome of a command that completes by R282. -/
def completes (r : CmdResult) : Host.Outcome State Fault Refusal := .next r.complete

end Sys2Proof.Machine
end

