-- ==== Sys2Proof/Machine/Flags.lean ====
section
/-! DEFINITION. The STATUS register as a word (10_state.md R22, R23, R25; 60_exceptions.md R310). How a
command's completion writes the flags is `Status.complete` in Machine/Ops.lean (R282). -/

namespace Sys2Proof.Machine

/-- The encoding of STATE (R23). -/
def Lifecycle.code : Lifecycle → Nat
  | .idle => 0
  | .generating => 1
  | .ready => 2

/-- The error codes (R310). -/
def Err.code : Err → Nat
  | .dataTooLarge => 1
  | .unsupportedEcc => 2
  | .illegalCmd => 3
  | .badVersion => 4
  | .badOperand => 5

/-- The value of the ERR field: 0 is NONE (R25, R310). -/
def errField : Option Err → Nat
  | none => 0
  | some e => e.code

/-- The STATUS register's value: STATE [1:0], OVR [2], LASTERR [3], ERR [7:4], [31:8] read 0 (R22). -/
def Status.word (t : Status) : Word :=
  BitVec.ofNat 32 (t.state.code + 4 * t.ovr.toNat + 8 * t.lasterr.toNat + 16 * errField t.err)

end Sys2Proof.Machine
end

