-- ==== Sys2Proof/Machine/Operands.lean ====
section
/-! DEFINITION. Operands as the numbers the rules compute with (30_encoding.md R96: unsigned, no sign
extension, scaling or shift), the range checks the rules make on them, and LEN's bytes of INBUF. -/

namespace Sys2Proof.Machine

/-- A or B as a number, 0..255 (R96). -/
def operand (a : Byte) : Nat := a.toNat

/-- The index of format FAB1 as a number, 0..511 (R96). -/
def indexOperand (idx : BitVec 9) : Nat := idx.toNat

/-- A version SETVER takes: 0, 2, 3, 4 or 5 (41_version.md R123). -/
def versionOperandOk (a : Byte) : Bool := operand a == 0 || (decide (2 ≤ operand a) && decide (operand a ≤ 5))

/-- An ECC count with a generator row: 1..26 (43_gf_rs.md R169, R171; RS_MAX of 00_scope.md R5). -/
def eccCountOk (n : Byte) : Bool := decide (1 ≤ operand n) && decide (operand n ≤ 26)

/-- INBUF[0..LEN-1], the payload BITSTREAM and GENERATE read (10_state.md R30). -/
def State.payload (s : State) : List Byte := (List.range s.len.toNat).map s.mem.inbuf

end Sys2Proof.Machine
end

