-- ==== Sys2Proof/Machine/Rom.lean ====
section
/-! DEFINITION. The read-only tables (10_state.md R33), which no command and no host access writes: EXP
and LOG (43_gf_rs.md R162, R163), GEN (R164, R165; rows as 95_test_vectors.md section 3 lists them), VT
(41_version.md R120), ALIGN_POS (44_patterns.md R208) and FORMAT_WORD (R213). The tests check the EXP,
LOG and GEN contents against the rules that define them. -/

namespace Sys2Proof.Machine

/-- EXP[0..255], as R162 lists them. -/
def expRows : List Byte :=
  [0x01, 0x02, 0x04, 0x08, 0x10, 0x20, 0x40, 0x80, 0x1D, 0x3A, 0x74, 0xE8, 0xCD, 0x87, 0x13, 0x26] ++
  [0x4C, 0x98, 0x2D, 0x5A, 0xB4, 0x75, 0xEA, 0xC9, 0x8F, 0x03, 0x06, 0x0C, 0x18, 0x30, 0x60, 0xC0] ++
  [0x9D, 0x27, 0x4E, 0x9C, 0x25, 0x4A, 0x94, 0x35, 0x6A, 0xD4, 0xB5, 0x77, 0xEE, 0xC1, 0x9F, 0x23] ++
  [0x46, 0x8C, 0x05, 0x0A, 0x14, 0x28, 0x50, 0xA0, 0x5D, 0xBA, 0x69, 0xD2, 0xB9, 0x6F, 0xDE, 0xA1] ++
  [0x5F, 0xBE, 0x61, 0xC2, 0x99, 0x2F, 0x5E, 0xBC, 0x65, 0xCA, 0x89, 0x0F, 0x1E, 0x3C, 0x78, 0xF0] ++
  [0xFD, 0xE7, 0xD3, 0xBB, 0x6B, 0xD6, 0xB1, 0x7F, 0xFE, 0xE1, 0xDF, 0xA3, 0x5B, 0xB6, 0x71, 0xE2] ++
  [0xD9, 0xAF, 0x43, 0x86, 0x11, 0x22, 0x44, 0x88, 0x0D, 0x1A, 0x34, 0x68, 0xD0, 0xBD, 0x67, 0xCE] ++
  [0x81, 0x1F, 0x3E, 0x7C, 0xF8, 0xED, 0xC7, 0x93, 0x3B, 0x76, 0xEC, 0xC5, 0x97, 0x33, 0x66, 0xCC] ++
  [0x85, 0x17, 0x2E, 0x5C, 0xB8, 0x6D, 0xDA, 0xA9, 0x4F, 0x9E, 0x21, 0x42, 0x84, 0x15, 0x2A, 0x54] ++
  [0xA8, 0x4D, 0x9A, 0x29, 0x52, 0xA4, 0x55, 0xAA, 0x49, 0x92, 0x39, 0x72, 0xE4, 0xD5, 0xB7, 0x73] ++
  [0xE6, 0xD1, 0xBF, 0x63, 0xC6, 0x91, 0x3F, 0x7E, 0xFC, 0xE5, 0xD7, 0xB3, 0x7B, 0xF6, 0xF1, 0xFF] ++
  [0xE3, 0xDB, 0xAB, 0x4B, 0x96, 0x31, 0x62, 0xC4, 0x95, 0x37, 0x6E, 0xDC, 0xA5, 0x57, 0xAE, 0x41] ++
  [0x82, 0x19, 0x32, 0x64, 0xC8, 0x8D, 0x07, 0x0E, 0x1C, 0x38, 0x70, 0xE0, 0xDD, 0xA7, 0x53, 0xA6] ++
  [0x51, 0xA2, 0x59, 0xB2, 0x79, 0xF2, 0xF9, 0xEF, 0xC3, 0x9B, 0x2B, 0x56, 0xAC, 0x45, 0x8A, 0x09] ++
  [0x12, 0x24, 0x48, 0x90, 0x3D, 0x7A, 0xF4, 0xF5, 0xF7, 0xF3, 0xFB, 0xEB, 0xCB, 0x8B, 0x0B, 0x16] ++
  [0x2C, 0x58, 0xB0, 0x7D, 0xFA, 0xE9, 0xCF, 0x83, 0x1B, 0x36, 0x6C, 0xD8, 0xAD, 0x47, 0x8E, 0x01]

/-- EXP[0..511]: entries 256..511 repeat entries 1..256, and EXP[256] = EXP[1] (R162). -/
def expRom : List Byte := expRows ++ expRows.drop 1 ++ [0x02]

/-- EXP[i] for i in 0..511 (R162). -/
def EXP (i : Nat) : Byte := expRom.getD i 0

/-- LOG[0..255], as R163 lists them; LOG[0] = 0 is a placeholder. -/
def logRom : List Byte :=
  [0x00, 0x00, 0x01, 0x19, 0x02, 0x32, 0x1A, 0xC6, 0x03, 0xDF, 0x33, 0xEE, 0x1B, 0x68, 0xC7, 0x4B] ++
  [0x04, 0x64, 0xE0, 0x0E, 0x34, 0x8D, 0xEF, 0x81, 0x1C, 0xC1, 0x69, 0xF8, 0xC8, 0x08, 0x4C, 0x71] ++
  [0x05, 0x8A, 0x65, 0x2F, 0xE1, 0x24, 0x0F, 0x21, 0x35, 0x93, 0x8E, 0xDA, 0xF0, 0x12, 0x82, 0x45] ++
  [0x1D, 0xB5, 0xC2, 0x7D, 0x6A, 0x27, 0xF9, 0xB9, 0xC9, 0x9A, 0x09, 0x78, 0x4D, 0xE4, 0x72, 0xA6] ++
  [0x06, 0xBF, 0x8B, 0x62, 0x66, 0xDD, 0x30, 0xFD, 0xE2, 0x98, 0x25, 0xB3, 0x10, 0x91, 0x22, 0x88] ++
  [0x36, 0xD0, 0x94, 0xCE, 0x8F, 0x96, 0xDB, 0xBD, 0xF1, 0xD2, 0x13, 0x5C, 0x83, 0x38, 0x46, 0x40] ++
  [0x1E, 0x42, 0xB6, 0xA3, 0xC3, 0x48, 0x7E, 0x6E, 0x6B, 0x3A, 0x28, 0x54, 0xFA, 0x85, 0xBA, 0x3D] ++
  [0xCA, 0x5E, 0x9B, 0x9F, 0x0A, 0x15, 0x79, 0x2B, 0x4E, 0xD4, 0xE5, 0xAC, 0x73, 0xF3, 0xA7, 0x57] ++
  [0x07, 0x70, 0xC0, 0xF7, 0x8C, 0x80, 0x63, 0x0D, 0x67, 0x4A, 0xDE, 0xED, 0x31, 0xC5, 0xFE, 0x18] ++
  [0xE3, 0xA5, 0x99, 0x77, 0x26, 0xB8, 0xB4, 0x7C, 0x11, 0x44, 0x92, 0xD9, 0x23, 0x20, 0x89, 0x2E] ++
  [0x37, 0x3F, 0xD1, 0x5B, 0x95, 0xBC, 0xCF, 0xCD, 0x90, 0x87, 0x97, 0xB2, 0xDC, 0xFC, 0xBE, 0x61] ++
  [0xF2, 0x56, 0xD3, 0xAB, 0x14, 0x2A, 0x5D, 0x9E, 0x84, 0x3C, 0x39, 0x53, 0x47, 0x6D, 0x41, 0xA2] ++
  [0x1F, 0x2D, 0x43, 0xD8, 0xB7, 0x7B, 0xA4, 0x76, 0xC4, 0x17, 0x49, 0xEC, 0x7F, 0x0C, 0x6F, 0xF6] ++
  [0x6C, 0xA1, 0x3B, 0x52, 0x29, 0x9D, 0x55, 0xAA, 0xFB, 0x60, 0x86, 0xB1, 0xBB, 0xCC, 0x3E, 0x5A] ++
  [0xCB, 0x59, 0x5F, 0xB0, 0x9C, 0xA9, 0xA0, 0x51, 0x0B, 0xF5, 0x16, 0xEB, 0x7A, 0x75, 0x2C, 0xD7] ++
  [0x4F, 0xAE, 0xD5, 0xE9, 0xE6, 0xE7, 0xAD, 0xE8, 0x74, 0xD6, 0xF4, 0xEA, 0xA8, 0x50, 0x58, 0xAF]

/-- LOG[a] (R163). -/
def LOG (a : Byte) : Byte := logRom.getD a.toNat 0

/-- GEN rows 1 to 13 under GENERIC (R164), exponents in decimal, j = 0 first. -/
def genRowsLow : List (List Byte) :=
  [ [0],
    [25, 1],
    [198, 199, 3],
    [75, 249, 78, 6],
    [113, 164, 166, 119, 10],
    [166, 0, 134, 5, 176, 15],
    [87, 229, 146, 149, 238, 102, 21],
    [175, 238, 208, 249, 215, 252, 196, 28],
    [95, 246, 137, 231, 235, 149, 11, 123, 36],
    [251, 67, 46, 61, 118, 70, 64, 94, 32, 45],
    [220, 192, 91, 194, 172, 177, 209, 116, 227, 10, 55],
    [102, 43, 98, 121, 187, 113, 198, 143, 131, 87, 157, 66],
    [74, 152, 176, 100, 86, 100, 106, 104, 130, 218, 206, 140, 78] ]

/-- GEN rows 14 to 26 under GENERIC (R164), exponents in decimal, j = 0 first. -/
def genRowsHigh : List (List Byte) :=
  [ [199, 249, 155, 48, 190, 124, 218, 137, 216, 87, 207, 59, 22, 91],
    [8, 183, 61, 91, 202, 37, 51, 58, 58, 237, 140, 124, 5, 99, 105],
    [120, 104, 107, 109, 102, 161, 76, 3, 91, 191, 147, 169, 182, 194, 225, 120],
    [43, 139, 206, 78, 43, 239, 123, 206, 214, 147, 24, 99, 150, 39, 243, 163, 136],
    [215, 234, 158, 94, 184, 97, 118, 170, 79, 187, 152, 148, 252, 179, 5, 98, 96, 153],
    [67, 3, 105, 153, 52, 90, 83, 17, 150, 159, 44, 128, 153, 133, 252, 222, 138, 220, 171],
    [17, 60, 79, 50, 61, 163, 26, 187, 202, 180, 221, 225, 83, 239, 156, 164, 212, 212, 188, 190],
    [240, 233, 104, 247, 181, 140, 67, 98, 85, 200, 210, 115, 148, 137, 230, 36, 122, 254, 148, 175, 210],
    [210, 171, 247, 242, 93, 230, 14, 109, 221, 53, 200, 74, 8, 172, 98, 80, 219, 134, 160, 105, 165, 231],
    [171, 102, 146, 91, 49, 103, 65, 17, 193, 150, 14, 25, 183, 248, 94, 164, 224, 192, 1, 78, 56, 147, 253],
    [229, 121, 135, 48, 211, 117, 251, 126, 159, 180, 169, 152, 192, 226, 228, 218, 111, 0, 117, 232, 87, 96, 227, 21],
    [231, 181, 156, 39, 170, 26, 12, 59, 15, 148, 201, 54, 66, 237, 208, 99, 167, 144, 182, 95, 243, 129, 178, 252, 45],
    [173, 125, 158, 2, 103, 182, 118, 17, 145, 201, 111, 28, 165, 53, 161, 21, 245, 142, 13, 102, 48, 227, 153, 145, 218, 70] ]

/-- GEN[n][0..n-1] under GENERIC (R164), for n in 1..26. -/
def genericRow (n : Nat) : List Byte := (genRowsLow ++ genRowsHigh).getD (n - 1) []

/-- The counts whose rows LEGACY_HOLES populates (R165). -/
def legacyCounts : List Nat := [7, 10, 15, 20]

/-- GEN[n][0..n-1] by P_GEN_MODE (R164, R165): under LEGACY_HOLES every other row is zero exponents. -/
def genRow (mode : GenMode) (n : Nat) : List Byte :=
  match mode with
  | .generic => genericRow n
  | .legacyHoles => if n ∈ legacyCounts then genericRow n else List.replicate n 0

/-- GEN[n][j] (R164, R165). -/
def GEN (mode : GenMode) (n j : Nat) : Byte := (genRow mode n).getD j 0

/-- One row of the version table (R120). -/
structure VersionRow where
  mc      : Nat
  capBits : Nat
  dcw     : Nat
  ecc     : Nat
  deriving DecidableEq, Repr

/-- VT[v] (R120). The table has rows for 2 to 5 only; what stands here for another number is read in no
reachable state (log entry 8). -/
def VT : Nat → VersionRow
  | 2 => { mc := 25, capBits := 272, dcw := 34, ecc := 10 }
  | 3 => { mc := 29, capBits := 440, dcw := 55, ecc := 15 }
  | 4 => { mc := 33, capBits := 640, dcw := 80, ecc := 20 }
  | 5 => { mc := 37, capBits := 864, dcw := 108, ecc := 26 }
  | _ => { mc := 0, capBits := 0, dcw := 0, ecc := 0 }

/-- ALIGN_POS[v] = [6, m-7], by the symbol's side m (R208). -/
def alignPos (m : Nat) : List Nat := [6, m - 7]

/-- FORMAT_WORD, the 15-bit constant (R213). -/
def formatWord : BitVec 15 := 0x77C4#15

end Sys2Proof.Machine
end

