-- ==== Sys2Proof/Machine/Version.lean ====
section
/-! DEFINITION. Version selection: SELVER and SETVER (41_version.md R121-R123). -/

namespace Sys2Proof.Machine

/-- select(n) (R121): inclusive thresholds, 0 for the empty input, 5 for everything above 46. -/
def selectVersion (n : Nat) : Nat :=
  if n = 0 then 0
  else if n ≤ 20 then 2
  else if n ≤ 32 then 3
  else if n ≤ 46 then 4
  else 5

/-- The four SYMINFO fields of version v, all from the table together (R120, R122; 10_state.md R26). -/
def SymInfo.ofVersion (v : Nat) : SymInfo :=
  if v = 0 then SymInfo.none
  else
    { version := BitVec.ofNat 8 v
      moduleCount := BitVec.ofNat 8 (VT v).mc
      dataCw := BitVec.ofNat 8 (VT v).dcw
      eccCw := BitVec.ofNat 8 (VT v).ecc }

/-- set_syminfo(v) (R122). -/
def State.setSyminfo (s : State) (v : Nat) : State := { s with syminfo := SymInfo.ofVersion v }

/-- SELVER's pseudocode (R122). -/
def selverBody (s : State) : CmdResult := done (s.setSyminfo (selectVersion s.len.toNat))

/-- SETVER's pseudocode (R123). -/
def setverBody (a : Byte) (s : State) : CmdResult :=
  if versionOperandOk a then done (s.setSyminfo (operand a)) else raise .badVersion s

/-- SELVER (R122). -/
def execSelver (s : State) : Host.Outcome State Fault Refusal := completes (selverBody s)

/-- SETVER (R123). -/
def execSetver (a : Byte) (s : State) : Host.Outcome State Fault Refusal := completes (setverBody a s)

end Sys2Proof.Machine
end

