-- ==== Sys2Proof/Machine/BitStream.lean ====
section
/-! DEFINITION. The bit-stream encoder: BITSTREAM (42_bitstream.md R140-R142). The stream is the list of
bits emitted so far, first bit first (00_scope.md R8); its length is the write position p. -/

namespace Sys2Proof.Machine

/-- The input overflows a capacity when its mode, count and payload bits exceed it (R140). -/
def overflows (n cap : Nat) : Bool := decide (cap < 12 + 8 * n)

/-- The w low bits of a value, most significant first (R141). -/
def msbFirst (val w : Nat) : List Bool := (List.range w).map (fun k => val.testBit (w - 1 - k))

/-- emit(val, w): append w bits, dropping those that would fall at or past the capacity (R141). -/
def emit (cap : Nat) (st : List Bool) (val w : Nat) : List Bool := (st ++ msbFirst val w).take cap

/-- emit of each payload byte (R142 step 3). -/
def emitPayload (cap : Nat) (st : List Bool) (payload : List Byte) : List Bool :=
  payload.foldl (fun st b => emit cap st b.toNat 8) st

/-- The k-th pad byte: 0xEC, 0x11, 0xEC, ... (R142 step 6). -/
def padByte (k : Nat) : Nat := if k % 2 = 0 then 0xEC else 0x11

/-- Step 6: pad bytes while p < cap; each emits eight bits, so (cap - p) / 8 of them, rounded up. -/
def emitPad (cap : Nat) (st : List Bool) : List Bool :=
  (List.range ((cap - st.length + 7) / 8)).foldl (fun st k => emit cap st (padByte k) 8) st

/-- The whole stream of R142, steps 1 to 6. -/
def bitStream (cap n : Nat) (payload : List Byte) : List Bool :=
  let modeDone := emit cap [] 0b0100 4
  let countDone := emit cap modeDone n 8
  let dataDone := emitPayload cap countDone payload
  let termDone := emit cap dataDone 0 (min 4 (cap - dataDone.length))
  let byteDone := emit cap termDone 0 ((8 - termDone.length % 8) % 8)
  emitPad cap byteDone

/-- Codeword k of a stream: bit 7 is s[8k], bit 0 is s[8k+7] (00_scope.md R8). -/
def streamByte (st : List Bool) (k : Nat) : Byte :=
  BitVec.ofNat 8 ((List.range 8).foldl (fun acc i => 2 * acc + (st.getD (8 * k + i) false).toNat) 0)

/-- The cap/8 data codewords of a stream. -/
def streamBytes (cap : Nat) (st : List Bool) : List Byte := (List.range (cap / 8)).map (streamByte st)

/-- Whether BITSTREAM or GENERATE raises DATA_TOO_LARGE for version v (R142, 47_sequencer.md R288). -/
def tooLarge (s : State) (v : Nat) : Bool :=
  decide (s.params.oversize = .error) && overflows s.len.toNat (VT v).capBits

/-- CWBUF[0..cap/8-1] <- the stream of INBUF[0..LEN-1] (R142). -/
def writeStream (s : State) (v : Nat) : State :=
  let cap := (VT v).capBits
  { s with mem := s.mem.setCwbuf 0 (streamBytes cap (bitStream cap s.len.toNat s.payload)) }

/-- BITSTREAM's pseudocode (R142). -/
def bitstreamBody (s : State) : CmdResult :=
  needVersion s
    (if tooLarge s s.syminfo.version.toNat then raise .dataTooLarge s
     else done (writeStream s s.syminfo.version.toNat))

/-- BITSTREAM (R142). -/
def execBitstream (s : State) : Host.Outcome State Fault Refusal := completes (bitstreamBody s)

end Sys2Proof.Machine
end

