-- ==== Sys2Proof/Machine/Gf.lean ====
section
/-! DEFINITION. GF(256) arithmetic and the Reed-Solomon encoder: GFMUL, GFEXP, GFLOG, GFGEN, RSENC
(43_gf_rs.md R160-R171). -/

namespace Sys2Proof.Machine

/-- Field multiplication (R160). -/
def gfMul (a b : Byte) : Byte :=
  if a = 0#8 ∨ b = 0#8 then 0#8 else EXP ((LOG a).toNat + (LOG b).toNat)

/-- The term XORed into position j of the register for a nonzero factor f (R170). -/
def rsTerm (f g : Byte) : Byte := EXP (((LOG f).toNat + (LOG (EXP g.toNat)).toNat) % 255)

/-- One data byte through the register (R170): feedback factor, shift left, and, if the factor is
nonzero, XOR of each position with its term. -/
def rsStep (row : List Byte) (reg : List Byte) (d : Byte) : List Byte :=
  let f := d ^^^ reg.headD 0#8
  let shifted := reg.drop 1 ++ [0#8]
  if f = 0#8 then shifted else List.zipWith (fun x g => x ^^^ rsTerm f g) shifted row

/-- rs_encode(d, n) (R170); the head of the result is the first ECC codeword. -/
def rsEncode (mode : GenMode) (n : Nat) (data : List Byte) : List Byte :=
  data.foldl (rsStep (genRow mode n)) (List.replicate n 0#8)

/-- RESULT <- v (10_state.md R29). -/
def State.setResult (s : State) (v : Byte) : State := { s with result := v }

/-- GFMUL's pseudocode (R166). -/
def gfmulBody (a b : Byte) (s : State) : CmdResult := done (s.setResult (gfMul a b))

/-- GFEXP's pseudocode (R167). -/
def gfexpBody (idx : BitVec 9) (s : State) : CmdResult := done (s.setResult (EXP (indexOperand idx)))

/-- GFLOG's pseudocode (R168). -/
def gflogBody (a : Byte) (s : State) : CmdResult := done (s.setResult (LOG a))

/-- GFGEN's pseudocode (R169): the count is checked before the position. -/
def gfgenBody (n j : Byte) (s : State) : CmdResult :=
  if !eccCountOk n then raise .unsupportedEcc s
  else if operand n ≤ operand j then raise .badOperand s
  else done (s.setResult (GEN s.params.genMode (operand n) (operand j)))

/-- RSENC's pseudocode for counts given as numbers (R171), as GENERATE calls it too (47_sequencer.md
R288): the count is checked before the reach; the data bytes are read before any ECC byte is written. -/
def rsencBody (n k : Nat) (s : State) : CmdResult :=
  if n < 1 ∨ 26 < n then raise .unsupportedEcc s
  else if 256 < k + n then raise .badOperand s
  else
    let data := (List.range k).map s.mem.cwbuf
    done { s with mem := s.mem.setCwbuf k (rsEncode s.params.genMode n data) }

/-- GFMUL (R166). -/
def execGfmul (a b : Byte) (s : State) : Host.Outcome State Fault Refusal := completes (gfmulBody a b s)

/-- GFEXP (R167). -/
def execGfexp (idx : BitVec 9) (s : State) : Host.Outcome State Fault Refusal := completes (gfexpBody idx s)

/-- GFLOG (R168). -/
def execGflog (a : Byte) (s : State) : Host.Outcome State Fault Refusal := completes (gflogBody a s)

/-- GFGEN (R169). -/
def execGfgen (n j : Byte) (s : State) : Host.Outcome State Fault Refusal := completes (gfgenBody n j s)

/-- RSENC (R171). -/
def execRsenc (n k : Byte) (s : State) : Host.Outcome State Fault Refusal :=
  completes (rsencBody (operand n) (operand k) s)

end Sys2Proof.Machine
end

