-- ==== Sys2Proof/Machine/Patterns.lean ====
section
/-! DEFINITION. The function-pattern generators: CLEARGRID, FINDER, TIMING, ALIGN, RSVFMT, FORMAT
(44_patterns.md R200-R214). m is SYMINFO.MODULE_COUNT and cells are (r, c), row first. A pattern is the
list of its cells with their values, stamped in the rule's order by set_fn. -/

namespace Sys2Proof.Machine

/-- m (44_patterns.md, head): SYMINFO.MODULE_COUNT as a number. -/
def State.side (s : State) : Nat := s.syminfo.moduleCount.toNat

/-- cheb(dr, dc) = max(|dr|, |dc|) (00_scope.md R9). -/
def cheb (dr dc : Int) : Nat := max dr.natAbs dc.natAbs

/-- set_fn(r, c, val): a cell outside the symbol is skipped, not wrapped (R201). -/
def setFn (m : Nat) (mem : Memory) (r c : Int) (val : Bool) : Memory :=
  if 0 ≤ r ∧ r < m ∧ 0 ≤ c ∧ c < m then mem.setCell r.toNat c.toNat val true else mem

/-- One set_fn call of a pattern: a cell and its value. -/
structure Stamp where
  r   : Int
  c   : Int
  val : Bool
  deriving DecidableEq, Repr

/-- The set_fn calls of a pattern, in order. -/
def stampAll (m : Nat) (mem : Memory) (stamps : List Stamp) : Memory :=
  stamps.foldl (fun mem p => setFn m mem p.r p.c p.val) mem

/-- The integers -k..k in increasing order. -/
def offsets (k : Nat) : List Int := (List.range (2 * k + 1)).map (fun i => (i : Int) - k)

/-- The offsets (dr, dc) with both in -k..k, dr outermost. -/
def boxOffsets (k : Nat) : List (Int × Int) :=
  (offsets k).flatMap (fun dr => (offsets k).map (fun dc => (dr, dc)))

/-! ### CLEARGRID -/

/-- MODULES and ISFUNC of all 37 x 37 cells <- 0 (R200). -/
def clearGrid (mem : Memory) : Memory :=
  (squareCells gridDim).foldl (fun mem rc => mem.setCell rc.1 rc.2 false false) mem

/-! ### FINDER -/

/-- FC, the finder centres in order: top-left, top-right, bottom-left (R202). -/
def finderCentres (m : Nat) : List (Int × Int) := [(3, 3), (3, (m : Int) - 4), ((m : Int) - 4, 3)]

/-- finder_val(d): dark at distance 0, 1, 3, light at 2 (R203). -/
def finderVal (d : Nat) : Bool := d != 2

/-- The finder at one centre (R203), with its separator ring when it is reserved (R204, R205). -/
def finderStamps (sep : Separators) (centre : Int × Int) : List Stamp :=
  (boxOffsets 4).filterMap (fun d =>
    if cheb d.1 d.2 ≤ 3 then some ⟨centre.1 + d.1, centre.2 + d.2, finderVal (cheb d.1 d.2)⟩
    else if sep = .reserved then some ⟨centre.1 + d.1, centre.2 + d.2, false⟩
    else none)

/-! ### TIMING -/

/-- The timing cell i of one line, skipped if it is a function cell when it is reached (R206). -/
def timingCell (m : Nat) (mem : Memory) (r c i : Nat) : Memory :=
  if mem.func r c then mem else setFn m mem r c (i % 2 == 0)

/-- The two timing lines, i from 8 to m-9 (R207). -/
def timingLines (m : Nat) (mem : Memory) : Memory :=
  (List.range' 8 (m - 16)).foldl (fun mem i => timingCell m (timingCell m mem 6 i i) i 6 i) mem

/-! ### ALIGN -/

/-- The candidate centres, every pair drawn from ALIGN_POS in order (R208). -/
def alignCandidates (m : Nat) : List (Nat × Nat) :=
  (alignPos m).flatMap (fun r => (alignPos m).map (fun c => (r, c)))

/-- The 5x5 footprint meets some finder's 9x9 box (R209). -/
def overlapsFinder (m : Nat) (ar ac : Nat) : Bool :=
  (finderCentres m).any (fun f =>
    decide (((ar : Int) - f.1).natAbs ≤ 6) && decide (((ac : Int) - f.2).natAbs ≤ 6))

/-- The 5x5 motif: light at distance 1, dark at 0 and 2 (R210). -/
def alignMotif (ar ac : Nat) : List Stamp :=
  (boxOffsets 2).map (fun d => ⟨ar + d.1, ac + d.2, cheb d.1 d.2 != 1⟩)

/-- The motifs of the centres that are not skipped (R210). -/
def alignStamps (m : Nat) : List Stamp :=
  ((alignCandidates m).filter (fun a => !overlapsFinder m a.1 a.2)).flatMap (fun a => alignMotif a.1 a.2)

/-! ### RSVFMT and FORMAT -/

/-- FMT_A[i], the first copy, around the top-left finder (R211). -/
def fmtA (i : Nat) : Int × Int :=
  if i ≤ 5 then (i, 8) else if i = 6 then (7, 8) else if i = 7 then (8, 8) else if i = 8 then (8, 7)
  else (8, 14 - (i : Int))

/-- FMT_B[i], the second copy (R211). -/
def fmtB (m i : Nat) : Int × Int :=
  if i ≤ 7 then (8, (m : Int) - 1 - i) else ((m : Int) - 15 + i, 8)

/-- DARK (R211). -/
def darkCell (m : Nat) : Int × Int := ((m : Int) - 8, 8)

/-- Bit i of a 15-bit word into FMT_A[i] and FMT_B[i] for i in 0..14, then DARK (R212, R214). -/
def fmtStamps (m : Nat) (word : BitVec 15) (dark : Bool) : List Stamp :=
  (List.range 15).flatMap (fun i =>
    [ ⟨(fmtA i).1, (fmtA i).2, word.getLsbD i⟩, ⟨(fmtB m i).1, (fmtB m i).2, word.getLsbD i⟩ ])
  ++ [ ⟨(darkCell m).1, (darkCell m).2, dark⟩ ]

/-! ### The commands' pseudocode -/

/-- CLEARGRID's pseudocode (R200). -/
def cleargridBody (s : State) : CmdResult := done { s with mem := clearGrid s.mem }

/-- FINDER's pseudocode (R205). -/
def finderBody (s : State) : CmdResult :=
  needVersion s (done { s with
    mem := stampAll s.side s.mem ((finderCentres s.side).flatMap (finderStamps s.params.separators)) })

/-- TIMING's pseudocode (R207). -/
def timingBody (s : State) : CmdResult := needVersion s (done { s with mem := timingLines s.side s.mem })

/-- ALIGN's pseudocode (R210). -/
def alignBody (s : State) : CmdResult :=
  needVersion s (done { s with mem := stampAll s.side s.mem (alignStamps s.side) })

/-- RSVFMT's pseudocode (R212): every format cell and DARK light. -/
def rsvfmtBody (s : State) : CmdResult :=
  needVersion s (done { s with mem := stampAll s.side s.mem (fmtStamps s.side 0#15 false) })

/-- FORMAT's pseudocode (R214). -/
def formatBody (s : State) : CmdResult :=
  needVersion s (done { s with mem := stampAll s.side s.mem (fmtStamps s.side formatWord true) })

/-- CLEARGRID (R200). -/
def execCleargrid (s : State) : Host.Outcome State Fault Refusal := completes (cleargridBody s)

/-- FINDER (R205). -/
def execFinder (s : State) : Host.Outcome State Fault Refusal := completes (finderBody s)

/-- TIMING (R207). -/
def execTiming (s : State) : Host.Outcome State Fault Refusal := completes (timingBody s)

/-- ALIGN (R210). -/
def execAlign (s : State) : Host.Outcome State Fault Refusal := completes (alignBody s)

/-- RSVFMT (R212). -/
def execRsvfmt (s : State) : Host.Outcome State Fault Refusal := completes (rsvfmtBody s)

/-- FORMAT (R214). -/
def execFormat (s : State) : Host.Outcome State Fault Refusal := completes (formatBody s)

end Sys2Proof.Machine
end

