-- ==== Sys2Proof/Machine/Placement.lean ====
section
/-! DEFINITION. The zig-zag data placer: PLACE (45_placement.md R250, R251). -/

namespace Sys2Proof.Machine

/-- The cells of one column pair, right column first at each row; upward visits row m-1 first (R250). -/
def pairCells (m right : Nat) (upward : Bool) : List (Nat × Nat) :=
  (List.range m).flatMap (fun vert =>
    let r := if upward then m - 1 - vert else vert
    [(r, right), (r, right - 1)])

/-- The loop of R250 from column `right` and pair number k. The fuel bounds the number of pairs. -/
def zigzagLoop (m : Nat) : (fuel right k : Nat) → List (Nat × Nat)
  | 0, _, _ => []
  | fuel + 1, right, k =>
    if right < 1 then []
    else
      let right := if right = 6 then 5 else right
      pairCells m right (k % 2 == 0) ++ zigzagLoop m fuel (right - 2) (k + 1)

/-- zz(m), the visiting order (R250). There are at most m column pairs. -/
def zigzag (m : Nat) : List (Nat × Nat) := zigzagLoop m m (m - 1) 0

/-- Bit i of the codeword stream in CWBUF (R251, 00_scope.md R8). -/
def Memory.streamBit (mem : Memory) (i : Nat) : Bool := (mem.cwbuf (i / 8)).getLsbD (7 - i % 8)

/-- One visited cell: the memory and the stream bit index so far (R251). A function cell is skipped; a
data cell takes the next bit, or 0 once the t codewords are used up. -/
def placeCell (t : Nat) (acc : Memory × Nat) (rc : Nat × Nat) : Memory × Nat :=
  if acc.1.func rc.1 rc.2 then acc
  else if acc.2 < 8 * t then (acc.1.setDark rc.1 rc.2 (acc.1.streamBit acc.2), acc.2 + 1)
  else (acc.1.setDark rc.1 rc.2 false, acc.2)

/-- All of zz(m), from stream bit 0 (R251). -/
def placeData (m t : Nat) (mem : Memory) : Memory := ((zigzag m).foldl (placeCell t) (mem, 0)).1

/-- T, the number of codewords placed (R251). -/
def State.totalCw (s : State) : Nat := s.syminfo.dataCw.toNat + s.syminfo.eccCw.toNat

/-- PLACE's pseudocode (R251). -/
def placeBody (s : State) : CmdResult :=
  needVersion s (done { s with mem := placeData s.side s.totalCw s.mem })

/-- PLACE (R251). -/
def execPlace (s : State) : Host.Outcome State Fault Refusal := completes (placeBody s)

end Sys2Proof.Machine
end

