-- ==== Sys2Proof/Machine/Mask.lean ====
section
/-! DEFINITION. The XOR mask applicator: MASK (46_mask.md R270), mask pattern 0 only. -/

namespace Sys2Proof.Machine

/-- A data cell with (r + c) even is flipped; every other cell is kept (R270). -/
def maskCell (mem : Memory) (rc : Nat × Nat) : Memory :=
  if mem.func rc.1 rc.2 = false ∧ (rc.1 + rc.2) % 2 = 0 then mem.setDark rc.1 rc.2 (!mem.dark rc.1 rc.2)
  else mem

/-- Every cell of the m x m square, row by row (R270). -/
def maskGrid (m : Nat) (mem : Memory) : Memory := (squareCells m).foldl maskCell mem

/-- MASK's pseudocode (R270). -/
def maskBody (s : State) : CmdResult := needVersion s (done { s with mem := maskGrid s.side s.mem })

/-- MASK (R270). -/
def execMask (s : State) : Host.Outcome State Fault Refusal := completes (maskBody s)

end Sys2Proof.Machine
end

