-- ==== Sys2Proof/Machine/Sequencer.lean ====
section
/-! DEFINITION. The sequencer's own commands: NOP, GENERATE, SOFTRESET, CLRERR (47_sequencer.md R288-R296). -/

namespace Sys2Proof.Machine

/-- NOP's pseudocode writes no state (R290). -/
def nopBody (s : State) : CmdResult := done s

/-- CLRERR's pseudocode (R296); R282 then sets LASTERR to 0 and STATE to READY. -/
def clrerrBody (s : State) : CmdResult := done { s with status := { s.status with err := none, ovr := false } }

/-- The stages of GENERATE after the version is set, in order (R288). -/
def generateStages (v : Nat) (s : State) : CmdResult :=
  (finderBody s).andThen fun s =>
  (timingBody s).andThen fun s =>
  (alignBody s).andThen fun s =>
  (rsvfmtBody s).andThen fun s =>
  (bitstreamBody s).andThen fun s =>
  (rsencBody (VT v).ecc (VT v).dcw s).andThen fun s =>
  (placeBody s).andThen fun s =>
  (formatBody s).andThen maskBody

/-- GENERATE's pseudocode (R288). The grid and SYMINFO are cleared before DATA_TOO_LARGE is raised. -/
def generateBody (s : State) : CmdResult :=
  (cleargridBody s).andThen fun s =>
    let n := s.len.toNat
    if n = 0 then done (s.setSyminfo 0)
    else
      let v := selectVersion n
      if tooLarge s v then raise .dataTooLarge (s.setSyminfo 0)
      else generateStages v (s.setSyminfo v)

/-- SOFTRESET's whole effect (R293), STATE <- IDLE included; CUR_CMD is cleared by R281. INBUF, CWBUF
keep their contents. -/
def softresetState (s : State) : State :=
  { s.setSyminfo 0 with
    status := { state := .idle, ovr := false, lasterr := false, err := none }
    len := 0#8
    qz := 4#8
    result := 0#8
    mem := clearGrid s.mem
    curCmd := none }

/-- NOP (R290). -/
def execNop (s : State) : Host.Outcome State Fault Refusal := completes (nopBody s)

/-- GENERATE (R288). -/
def execGenerate (s : State) : Host.Outcome State Fault Refusal := completes (generateBody s)

/-- SOFTRESET (R293): R282 does not apply. -/
def execSoftreset (s : State) : Host.Outcome State Fault Refusal := .next (softresetState s)

/-- CLRERR (R296). -/
def execClrerr (s : State) : Host.Outcome State Fault Refusal := completes (clrerrBody s)

end Sys2Proof.Machine
end

