-- ==== Sys2Proof/Machine/Bus.lean ====
section
/-! DEFINITION. The host's bus accesses (20_memory.md R60-R70), acceptance of a command (47_sequencer.md
R280), and the reset event (70_reset_and_hazards.md R340, R341). Each is one event. -/

namespace Sys2Proof.Machine

/-! ### The address map -/

/-- The registers at 0x0000-0x0017 (R61). -/
def isRegister (off : Nat) : Bool := decide (off < 0x18)

/-- INBUF, 0x0100-0x01FF (R61). -/
def isInbuf (off : Nat) : Bool := decide (0x100 ≤ off) && decide (off < 0x200)

/-- CWBUF, 0x0200-0x02FF (R61). -/
def isCwbuf (off : Nat) : Bool := decide (0x200 ≤ off) && decide (off < 0x300)

/-- The GRID window, 0x1000-0x1FFF (R61). -/
def isGrid (off : Nat) : Bool := decide (0x1000 ≤ off) && decide (off < 0x2000)

/-- The array regions (R62). -/
def isArray (off : Nat) : Bool := isInbuf off || isCwbuf off || isGrid off

/-- The reserved offsets, 0x0018-0x00FF and 0x0300-0x0FFF (R61, R69). -/
def isReserved (off : Nat) : Bool := !isRegister off && !isArray off

/-- The access raises a bus error (R62, R69): 8 bits outside the arrays, or 32 bits at an offset that is
reserved or not a multiple of 4. -/
def Access.busError : Access → Bool
  | .rd8 off | .wr8 off _ => !isArray off.toNat
  | .rd32 off | .wr32 off _ => off.toNat % 4 != 0 || isReserved off.toNat

/-! ### Reading -/

/-- The row of a GRID window offset (R64). -/
def windowRow (off : Nat) : Nat := (off - gridBase) / 64

/-- The column of a GRID window offset (R64). -/
def windowCol (off : Nat) : Nat := (off - gridBase) % 64

/-- The byte at an array offset: a buffer byte (R65), or a cell's {ISFUNC, MODULES}, 0 if unbacked (R64). -/
def Memory.arrayByte (m : Memory) (off : Nat) : Byte :=
  if isGrid off then cellByte (m.dark (windowRow off) (windowCol off)) (m.func (windowRow off) (windowCol off))
  else m.read off

/-- The 32-bit value of the register at an offset (R61; 10_state.md R21-R29); bits a register does not
list read 0. -/
def State.registerWord (s : State) (off : Nat) : Word :=
  match off with
  | 0x04 => s.status.word
  | 0x08 => s.syminfo.word
  | 0x0C => s.len.setWidth 32
  | 0x10 => s.qz.setWidth 32
  | 0x14 => s.result.setWidth 32
  | _ => 0#32

/-- Four array bytes as a word, byte `off` in bits [7:0] (R63). -/
def Memory.arrayWord (m : Memory) (off : Nat) : Word :=
  (m.arrayByte (off + 3) ++ m.arrayByte (off + 2) : BitVec 16) ++
    (m.arrayByte (off + 1) ++ m.arrayByte off : BitVec 16)

/-- What a 32-bit read of a mapped, aligned offset returns when no command is running. -/
def State.readWord (s : State) (off : Nat) : Word :=
  if isRegister off then s.registerWord off else s.mem.arrayWord off

/-! ### Writing -/

/-- An 8-bit write to an array offset (R64, R65). -/
def Memory.setArrayByte (m : Memory) (off : Nat) (v : Byte) : Memory :=
  if isGrid off then m.setCell (windowRow off) (windowCol off) (v.getLsbD 0) (v.getLsbD 1)
  else m.write off v

/-- A 32-bit write to an array offset: its four bytes in the order of R63. -/
def Memory.setArrayWord (m : Memory) (off : Nat) (v : Word) : Memory :=
  (((m.setArrayByte off (v.extractLsb' 0 8)).setArrayByte (off + 1) (v.extractLsb' 8 8)).setArrayByte
    (off + 2) (v.extractLsb' 16 8)).setArrayByte (off + 3) (v.extractLsb' 24 8)

/-- STATUS.STATE <- st. -/
def State.setLifecycle (s : State) (st : Lifecycle) : State := { s with status := { s.status with state := st } }

/-- Acceptance of a command (47_sequencer.md R280): the word is latched and STATE is GENERATING, whatever
the word. -/
def State.accept (s : State) (w : Word) : State := { s.setLifecycle .generating with curCmd := some w }

/-- A write to an array: a write to INBUF also sets IDLE (R65, R66). -/
def State.storeArray (s : State) (off : Nat) (m : Memory) : State :=
  if isInbuf off then { s.setLifecycle .idle with mem := m } else { s with mem := m }

/-- An allowed 32-bit write to a register offset (R66). -/
def State.writeRegister (s : State) (off : Nat) (v : Word) : State :=
  match off with
  | 0x00 => s.accept v
  | 0x0C => { s.setLifecycle .idle with len := v.extractLsb' 0 8 }
  | 0x10 => { s with qz := v.extractLsb' 0 8 }
  | _ => s

/-- An allowed 32-bit write (R66). -/
def State.writeWord (s : State) (off : Nat) (v : Word) : State :=
  if isRegister off then s.writeRegister off v else s.storeArray off (s.mem.setArrayWord off v)

/-- An allowed 8-bit write (R66). -/
def State.writeByte (s : State) (off : Nat) (v : Byte) : State := s.storeArray off (s.mem.setArrayByte off v)

/-! ### One access -/

/-- The bus answers. -/
def State.respond (s : State) (error : Bool) (data : Word) : State :=
  { s with response := some { error := error, data := data } }

/-- A read that raises no bus error (R66, R68): no side effect; while GENERATING, exact for STATUS and
otherwise a free value, a fresh one for each read (log entry 3). `mask` keeps the access's width. -/
def State.read (s : State) (isStatus : Bool) (exact mask : Word) : State :=
  if s.status.state = .generating ∧ isStatus = false then
    { s.respond false (Config.freeRead s.draws &&& mask) with draws := s.draws + 1 }
  else s.respond false exact

/-- A write that raises no bus error: dropped while GENERATING, with OVR set (R67); else its effect. -/
def State.write (s : State) (effect : State) : State :=
  if s.status.state = .generating then
    { s.respond false 0#32 with status := { s.status with ovr := true } }
  else effect.respond false 0#32

/-- One host access (R62-R70): the bus-error test comes before the GENERATING test (R69). -/
def hostAccess (a : Access) (s : State) : State :=
  if a.busError then s.respond true 0#32
  else
    match a with
    | .rd8 off => s.read false ((s.mem.arrayByte off.toNat).setWidth 32) 0xFF#32
    | .rd32 off => s.read (off.toNat == 0x04) (s.readWord off.toNat) 0xFFFFFFFF#32
    | .wr8 off v => s.write (s.writeByte off.toNat v)
    | .wr32 off v => s.write (s.writeWord off.toNat v)

/-! ### Reset -/

/-- INBUF and CWBUF filled with the bytes they hold after a reset (R341), everything else unlisted. -/
def resetMemory (inbuf cwbuf : Vector Byte 256) : Memory :=
  (Memory.writeBytes [] inbufBase inbuf.toList).writeBytes cwbufBase cwbuf.toList

/-- The reset event (R340): every register, flag and array at its reset value, CUR_CMD empty, so a running
command is abandoned. The parameters, the events still to come and the count of free values are no state
of the block's that reset touches (log entry 15). -/
def resetEvent (inbuf cwbuf : Vector Byte 256) (s : State) : State :=
  { State.reset with
    params := s.params
    mem := resetMemory inbuf cwbuf
    events := s.events
    draws := s.draws }

end Sys2Proof.Machine
end

