-- ==== Sys2Proof/Machine/Dispatch.lean ====
section
/-! DEFINITION. One arm per command: the completion of a decoded command (47_sequencer.md R281, steps 2 and 3). -/

namespace Sys2Proof.Machine

def exec (i : Instr) (s : State) : Host.Outcome State Fault Refusal :=
  match i with
  | .nop => Sys2Proof.Machine.execNop s
  | .generate => Sys2Proof.Machine.execGenerate s
  | .softreset => Sys2Proof.Machine.execSoftreset s
  | .clrerr => Sys2Proof.Machine.execClrerr s
  | .selver => Sys2Proof.Machine.execSelver s
  | .setver a => Sys2Proof.Machine.execSetver a s
  | .bitstream => Sys2Proof.Machine.execBitstream s
  | .gfmul a b => Sys2Proof.Machine.execGfmul a b s
  | .gfexp idx => Sys2Proof.Machine.execGfexp idx s
  | .gflog a => Sys2Proof.Machine.execGflog a s
  | .gfgen n j => Sys2Proof.Machine.execGfgen n j s
  | .rsenc n k => Sys2Proof.Machine.execRsenc n k s
  | .cleargrid => Sys2Proof.Machine.execCleargrid s
  | .finder => Sys2Proof.Machine.execFinder s
  | .timing => Sys2Proof.Machine.execTiming s
  | .align => Sys2Proof.Machine.execAlign s
  | .rsvfmt => Sys2Proof.Machine.execRsvfmt s
  | .format => Sys2Proof.Machine.execFormat s
  | .place => Sys2Proof.Machine.execPlace s
  | .mask => Sys2Proof.Machine.execMask s

end Sys2Proof.Machine
end

