-- ==== Sys2Proof/Machine/Completion.lean ====
section
/-! DEFINITION. The core agent's turn (47_sequencer.md R281): while STATE = GENERATING its one enabled
step is the completion of the latched command; otherwise it has none and the state is held (R326). -/

namespace Sys2Proof.Machine

/-- A command word completes (R281): an illegal word with ILLEGAL_CMD and no other effect (30_encoding.md
R94), a legal one by its rule. -/
def completeWord (w : Word) (s : State) : Host.Outcome State Fault Refusal :=
  match decode w with
  | .error _ => completes (raise .illegalCmd s)
  | .ok i => exec i s

/-- The core's turn. The fault stands where no run goes (log entry 7). -/
def coreTurn (s : State) : Host.Outcome State Fault Refusal :=
  if s.status.state = .generating then
    match s.curCmd with
    | some w => completeWord w s
    | none => .fault .noCommandLatched
  else .next s

end Sys2Proof.Machine
end

