-- ==== Sys2Proof/Machine/Step.lean ====
section
/-! DEFINITION. One step: the next event of the total order (20_memory.md R71). With no event left the
core has the turn, so an accepted command completes (70_reset_and_hazards.md R353) and otherwise the state
is held (60_exceptions.md R326). -/

namespace Sys2Proof.Machine

/-- The state with its first event taken off. -/
def State.popEvent (s : State) : State := { s with events := s.events.tail }

/-- One step. -/
def step (s : State) : Host.Outcome State Fault Refusal :=
  match s.events with
  | [] => coreTurn s
  | .core :: _ => coreTurn s.popEvent
  | .host a :: _ => .next (hostAccess a s.popEvent)
  | .reset inbuf cwbuf :: _ => .next (resetEvent inbuf cwbuf s.popEvent)

/-- The block fetches nothing (10_state.md R34): the command it runs next is the one latched in CUR_CMD
(R35). So: the word is accepted, as a host write to CMD does (47_sequencer.md R280), and the core has the
very next turn (log entry 12). -/
def State.withFetchWord (s : State) (nbits w : Nat) : State :=
  { s.accept (tableWord nbits w) with events := .core :: s.events }

end Sys2Proof.Machine
end

