-- ==== Sys2Proof/Safety.lean ====
section
/-! DEFINITION. What holds of every state a run reaches, and what a safe step is, in the terms the
statements use. -/

namespace Sys2Proof.Machine

/-- SYMINFO is one of the five table rows (10_state.md R26: "these equalities hold in every state"). -/
def SymInfo.consistent (y : SymInfo) : Bool :=
  y == SymInfo.none || y == ⟨2, 25, 34, 10⟩ || y == ⟨3, 29, 55, 15⟩ || y == ⟨4, 33, 80, 20⟩
    || y == ⟨5, 37, 108, 26⟩

/-- An entry of memory the block has: a buffer byte, or a backed cell with bits [7:2] 0 (20_memory.md R61,
R64, R65). -/
def cellOk (c : Host.Cell) : Bool :=
  isInbuf c.1 || isCwbuf c.1 ||
    (isGrid c.1 && backed (windowRow c.1) (windowCol c.1) && decide (c.2.toNat < 4))

/-- Memory holds nothing but what the block has. -/
def Memory.layoutOk (m : Memory) : Bool := m.all cellOk

/-- CUR_CMD holds a command exactly while STATE = GENERATING (10_state.md R20, R35). -/
def State.latchOk (s : State) : Bool := s.curCmd.isSome == decide (s.status.state = .generating)

/-- The invariant of the machine. -/
structure Inv (s : State) : Prop where
  wf         : s.mem.wf = true
  layout     : s.mem.layoutOk = true
  consistent : s.syminfo.consistent = true
  latch      : s.latchOk = true

/-- A step is safe when it answers a next state. -/
def SafeStep (s : State) : Prop := ∃ t, step s = .next t

end Sys2Proof.Machine
end

