-- ==== Sys2Proof/Certificates/Slice0/Obligations.lean ====
section
/-! DEFINITION. The statements for the provers, after the numbered rules of spec/. `Sys2Proof.Claims` holds
the vocabulary they are written in: closed forms taken from the rules' words, not from the model's loops. -/

namespace Sys2Proof.Claims

open Sys2Proof.Machine

/-! ### Status, frames -/

/-- STATUS after a command that raised nothing (R282). -/
def okStatus (s : State) : Status := { s.status with lasterr := false, state := .ready }

/-- STATUS after a command that raised `e` (R282): ERR keeps an earlier error. -/
def failedStatus (s : State) (e : Err) : Status :=
  { s.status with lasterr := true, err := some (s.status.err.getD e), state := .ready }

/-- The state `s` with a command completed without error and nothing else changed. -/
def completedOk (s : State) : State := { s with status := okStatus s, curCmd := none }

/-- The state `s` with a command completed with error `e` and nothing else changed (R312). -/
def completedErr (s : State) (e : Err) : State := { s with status := failedStatus s e, curCmd := none }

/-- Every field but memory is as after a command that completed without error and wrote memory only. -/
def OnlyMemory (s t : State) : Prop := t = { completedOk s with mem := t.mem }

/-- The address of some physical grid cell (R64). -/
def isCellAddr (a : Nat) : Prop := ∃ r c, r < 37 ∧ c < 37 ∧ a = 0x1000 + 64 * r + c

/-- Cells given a value by `pattern` are function cells with that value; every byte that is not such a
cell's reads as before. -/
def Stamped (pattern : Nat → Nat → Option Bool) (m0 m1 : Memory) : Prop :=
  (∀ r c v, r < 37 → c < 37 → pattern r c = some v → m1.func r c = true ∧ m1.dark r c = v) ∧
  (∀ a, (∀ r c, r < 37 → c < 37 → pattern r c ≠ none → a ≠ 0x1000 + 64 * r + c) → m1.read a = m0.read a)

/-- Every physical cell is light and no function cell; every byte that is no cell's reads as before. -/
def GridCleared (m0 m1 : Memory) : Prop :=
  (∀ r c, r < 37 → c < 37 → m1.dark r c = false ∧ m1.func r c = false) ∧
  (∀ a, ¬ isCellAddr a → m1.read a = m0.read a)

/-- A symbol is selected, and SYMINFO is as it is in every reachable state (R26, R284). -/
def HasVersion (s : State) : Prop := s.syminfo.consistent = true ∧ s.syminfo.version ≠ 0#8

/-! ### Version selection (R120, R121) -/

/-- The version table (R120) as SYMINFO fields; the zero row is "no symbol". -/
def symRow : Nat → SymInfo
  | 2 => ⟨2#8, 25#8, 34#8, 10#8⟩
  | 3 => ⟨3#8, 29#8, 55#8, 15#8⟩
  | 4 => ⟨4#8, 33#8, 80#8, 20#8⟩
  | 5 => ⟨5#8, 37#8, 108#8, 26#8⟩
  | _ => ⟨0#8, 0#8, 0#8, 0#8⟩

/-- The capacity in bits of each version (R120). -/
def capacity : Nat → Nat
  | 2 => 272
  | 3 => 440
  | 4 => 640
  | 5 => 864
  | _ => 0

/-- select(n) by its thresholds (R121). -/
def versionFor (n : Nat) : Nat :=
  if n = 0 then 0 else if n ≤ 20 then 2 else if n ≤ 32 then 3 else if n ≤ 46 then 4 else 5

/-! ### Errors (R310, R313) -/

/-- BITSTREAM's and the oversize check's condition (R140, R310). -/
def oversized (s : State) (v : Nat) : Bool :=
  decide (s.params.oversize = .error) && decide (capacity v < 12 + 8 * s.len.toNat)

/-- The error each command raises, by cause and priority (R310, R313); none where it raises none. -/
def errorOf (i : Instr) (s : State) : Option Err :=
  match i with
  | .setver a => if a.toNat ∈ [0, 2, 3, 4, 5] then none else some .badVersion
  | .bitstream =>
    if s.syminfo.version = 0#8 then some .badVersion
    else if oversized s s.syminfo.version.toNat then some .dataTooLarge else none
  | .generate => if s.len ≠ 0#8 ∧ oversized s (versionFor s.len.toNat) = true then some .dataTooLarge else none
  | .gfgen n j =>
    if n.toNat < 1 ∨ 26 < n.toNat then some .unsupportedEcc
    else if n.toNat ≤ j.toNat then some .badOperand else none
  | .rsenc n k =>
    if n.toNat < 1 ∨ 26 < n.toNat then some .unsupportedEcc
    else if 256 < k.toNat + n.toNat then some .badOperand else none
  | .finder | .timing | .align | .rsvfmt | .format | .place | .mask =>
    if s.syminfo.version = 0#8 then some .badVersion else none
  | .nop | .softreset | .clrerr | .selver | .gfmul _ _ | .gfexp _ | .gflog _ | .cleargrid => none

/-! ### GF(256) from its polynomial, not from the tables (R161, R164) -/

/-- Multiplication by α = 0x02 modulo 0x11D (R161, R162). -/
def timesAlpha (a : Byte) : Byte := (a <<< 1) ^^^ (if a.getLsbD 7 then 0x1D#8 else 0#8)

/-- α^i by repeated multiplication. -/
def alphaPow : Nat → Byte
  | 0 => 1#8
  | i + 1 => timesAlpha (alphaPow i)

/-- The product of two polynomials over GF(2), bit i the coefficient of x^i (R161). -/
def carrylessProduct (a b : Nat) : Nat :=
  (List.range 8).foldl (fun acc i => if b.testBit i then acc ^^^ (a <<< i) else acc) 0

/-- The remainder modulo x^8 + x^4 + x^3 + x^2 + 1 of a polynomial of degree at most 14 (R161). -/
def reduce11D (p : Nat) : Nat :=
  (List.range 7).foldl (fun acc i => if acc.testBit (14 - i) then acc ^^^ (0x11D <<< (6 - i)) else acc) p

/-- Multiplication in the field of R161. -/
def fieldMul (a b : Byte) : Byte := BitVec.ofNat 8 (reduce11D (carrylessProduct a.toNat b.toNat))

/-- A polynomial, highest coefficient first, times (x - root). -/
def timesLinear (p : List Byte) (root : Byte) : List Byte :=
  List.zipWith (fun x y => x ^^^ y) (p ++ [0#8]) (0#8 :: p.map (fieldMul root))

/-- g_n(x) = Π_{i<n} (x - α^i), highest coefficient first, the leading 1 included (R164). -/
def generatorPoly : Nat → List Byte
  | 0 => [1#8]
  | n + 1 => timesLinear (generatorPoly n) (alphaPow n)

/-- The value of a polynomial, highest coefficient first, at x. -/
def evalAt (x : Byte) (p : List Byte) : Byte := p.foldl (fun acc c => fieldMul acc x ^^^ c) 0#8

/-- Every syndrome of a codeword with n ECC bytes is 0: it vanishes at α^0, ..., α^(n-1) (R172). -/
def SyndromesVanish (n : Nat) (codeword : List Byte) : Prop := ∀ i, i < n → evalAt (alphaPow i) codeword = 0#8

/-- CWBUF[0..L-1]. -/
def codewords (m : Memory) (L : Nat) : List Byte := (List.range L).map m.cwbuf

/-- One data byte under a hole of LEGACY_HOLES: a nonzero factor XORs itself into every position (R165, R171). -/
def holeStep (reg : List Byte) (d : Byte) : List Byte :=
  (reg.drop 1 ++ [0#8]).map (fun x => x ^^^ (d ^^^ reg.headD 0#8))

/-! ### The bit stream's closed form (R143) -/

/-- Codeword j of a stream that fits: D data codewords, n payload bytes b (R143). -/
def streamClosed (n : Nat) (b : Nat → Nat) (j : Nat) : Nat :=
  if j = 0 then 0x40 + n / 16
  else if j = 1 then 16 * (n % 16) + (if n = 0 then 0 else b 0 / 16)
  else if j ≤ n then 16 * (b (j - 2) % 16) + b (j - 1) / 16
  else if j = n + 1 then 16 * (b (n - 1) % 16)
  else if (j - n - 2) % 2 = 0 then 0xEC else 0x11

/-- Codeword j of a clipped stream: mode, count and payload only (R142, TRUNCATE). -/
def streamClipped (n : Nat) (b : Nat → Nat) (j : Nat) : Nat :=
  if j = 0 then 0x40 + n / 16
  else if j = 1 then 16 * (n % 16) + b 0 / 16
  else 16 * (b (j - 2) % 16) + b (j - 1) / 16

/-! ### Function patterns (R202 to R211) -/

/-- |a - b|. -/
def dist (a b : Nat) : Nat := (a - b) + (b - a)

/-- The Chebyshev distance of two cells (R9). -/
def cellDist (r c r' c' : Nat) : Nat := max (dist r r') (dist c c')

/-- The distance to the nearest finder centre (R202). -/
def finderDist (m r c : Nat) : Nat :=
  min (cellDist r c 3 3) (min (cellDist r c 3 (m - 4)) (cellDist r c (m - 4) 3))

/-- The finder motifs, dark at distance 0, 1 and 3 and light at 2, and, when reserved, the light ring at
distance 4 inside the symbol (R203, R204). -/
def finderPattern (sep : Separators) (m r c : Nat) : Option Bool :=
  if finderDist m r c ≤ 3 then some (decide (finderDist m r c ≠ 2))
  else if finderDist m r c = 4 ∧ r < m ∧ c < m ∧ sep = .reserved then some false
  else none

/-- The timing lines: row 6 and column 6 from 8 to m-9, dark at even positions (R206). -/
def timingPattern (m r c : Nat) : Option Bool :=
  if r = 6 ∧ 8 ≤ c ∧ c + 9 ≤ m then some (decide (c % 2 = 0))
  else if c = 6 ∧ 8 ≤ r ∧ r + 9 ≤ m then some (decide (r % 2 = 0))
  else none

/-- The one alignment motif, centred at (m-7, m-7): light at distance 1, dark at 0 and 2 (R208 to R210). -/
def alignPattern (m r c : Nat) : Option Bool :=
  if cellDist r c (m - 7) (m - 7) ≤ 2 then some (decide (cellDist r c (m - 7) (m - 7) ≠ 1)) else none

/-- FMT_A[0..14] (R211). -/
def fmtACells : List (Nat × Nat) :=
  [(0, 8), (1, 8), (2, 8), (3, 8), (4, 8), (5, 8), (7, 8), (8, 8), (8, 7), (8, 5), (8, 4), (8, 3), (8, 2),
    (8, 1), (8, 0)]

/-- FMT_B[0..14] (R211). -/
def fmtBCells (m : Nat) : List (Nat × Nat) :=
  [(8, m - 1), (8, m - 2), (8, m - 3), (8, m - 4), (8, m - 5), (8, m - 6), (8, m - 7), (8, m - 8),
    (m - 7, 8), (m - 6, 8), (m - 5, 8), (m - 4, 8), (m - 3, 8), (m - 2, 8), (m - 1, 8)]

/-- The format cells with `bits[i]` in FMT_A[i] and FMT_B[i], and the dark module (R211). -/
def formatPattern (bits : List Bool) (dark : Bool) (m r c : Nat) : Option Bool :=
  if (r, c) = (m - 8, 8) then some dark
  else ((fmtACells.zip bits ++ (fmtBCells m).zip bits).find? (fun e => e.1 == (r, c))).map (fun e => e.2)

/-- Bits 0..14 of the format word (R213). -/
def formatBits : List Bool :=
  [false, false, true, false, false, false, true, true, true, true, true, false, true, true, true]

/-- Every function cell of a finished symbol, with its value. -/
def symbolPattern (sep : Separators) (m r c : Nat) : Option Bool :=
  ((((formatPattern formatBits true m r c).or (alignPattern m r c)).or (timingPattern m r c)).or
    (finderPattern sep m r c))

/-- How many cells of the m x m square are function cells. -/
def functionCells (mem : Memory) (m : Nat) : Nat :=
  ((List.range m).map (fun r => (List.range m).countP (fun c => mem.func r c))).sum

/-! ### Placement (R250, R251) -/

/-- How many of the first p visited cells are data cells: the stream bit index at visit p (R251). -/
def dataIndex (mem : Memory) (m p : Nat) : Nat := ((zigzag m).take p).countP (fun rc => !mem.func rc.1 rc.2)

/-- The value placed at visit p: stream bit number dataIndex while there is one, then 0 (R251). -/
def placedBit (mem : Memory) (m t p : Nat) : Bool :=
  let i := dataIndex mem m p
  if i < 8 * t then (mem.cwbuf (i / 8)).getLsbD (7 - i % 8) else false

/-! ### Running commands by hand -/

/-- Each command completed after the other; none if one of them stops. -/
def runAll : List Instr → State → Option State
  | [], s => some s
  | i :: is, s =>
    match exec i s with
    | .next t => runAll is t
    | .fault _ => none
    | .refused _ => none

/-- The stage commands in GENERATE's order, with RSENC's operands from SYMINFO (R345). -/
def stagesByHand (v : Nat) : List Instr :=
  [.cleargrid, .selver, .finder, .timing, .align, .rsvfmt, .bitstream,
    .rsenc (symRow v).eccCw (symRow v).dataCw, .place, .format, .mask]

/-! ### The bus (R61 to R69) -/

/-- INBUF, CWBUF and the GRID window (R61, R62). -/
def inArrays (off : Nat) : Prop := (0x100 ≤ off ∧ off < 0x300) ∨ 0x1000 ≤ off

/-- The reserved offsets (R61, R69). -/
def inReserved (off : Nat) : Prop := (0x18 ≤ off ∧ off < 0x100) ∨ (0x300 ≤ off ∧ off < 0x1000)

/-- The accesses that raise a bus error (R62, R69). -/
def raisesBusError : Access → Prop
  | .rd8 off => ¬ inArrays off.toNat
  | .wr8 off _ => ¬ inArrays off.toNat
  | .rd32 off => off.toNat % 4 ≠ 0 ∨ inReserved off.toNat
  | .wr32 off _ => off.toNat % 4 ≠ 0 ∨ inReserved off.toNat

/-- A host write. -/
def isWrite : Access → Bool
  | .wr8 _ _ => true
  | .wr32 _ _ => true
  | .rd8 _ => false
  | .rd32 _ => false

/-- The byte a host read sees at an array offset (R64, R65). -/
def shownByte (m : Memory) (off : Nat) : Byte :=
  if off < 0x1000 then m.read off
  else
    let r := (off - 0x1000) / 64
    let c := (off - 0x1000) % 64
    if r < 37 ∧ c < 37 then BitVec.ofNat 8 (2 * (m.func r c).toNat + (m.dark r c).toNat) else 0#8

/-- What an 8-bit write of v leaves to be seen at its own offset (R64, R65). -/
def keptByte (off : Nat) (v : Byte) : Byte :=
  if off < 0x1000 then v
  else if (off - 0x1000) / 64 < 37 ∧ (off - 0x1000) % 64 < 37 then v &&& 3#8 else 0#8

/-- The bus answers an access with no error and this data. -/
def answered (s : State) (data : Word) : State := { s with response := some ⟨false, data⟩ }

/-- The command whose completion this step is, if it is one and its word is legal. -/
def completing (s : State) : Option Instr :=
  match s.events with
  | [] => if s.status.state = .generating then s.curCmd.bind (fun w => (decode w).toOption) else none
  | .core :: _ => if s.status.state = .generating then s.curCmd.bind (fun w => (decode w).toOption) else none
  | .host _ :: _ => none
  | .reset _ _ :: _ => none

end Sys2Proof.Claims

open Sys2Proof Sys2Proof.Machine Sys2Proof.Claims

/-! ### Encoding -/

/-- Words written out from R90, R92 and R98, one or more of each family, decode to their commands. -/
def Obligations.WordsOfEachFamilyDecode : Prop :=
  decode 0x00000000#32 = .ok .nop ∧ decode 0x00000001#32 = .ok .generate ∧
  decode 0x00000010#32 = .ok .selver ∧ decode 0x00000511#32 = .ok (.setver 5#8) ∧
  decode 0x00000020#32 = .ok .bitstream ∧ decode 0x00CA5330#32 = .ok (.gfmul 0x53#8 0xCA#8) ∧
  decode 0x00012C31#32 = .ok (.gfexp 300#9) ∧ decode 0x00001D32#32 = .ok (.gflog 0x1D#8) ∧
  decode 0x00191A33#32 = .ok (.gfgen 26#8 25#8) ∧ decode 0x00100A34#32 = .ok (.rsenc 10#8 16#8) ∧
  decode 0x00000041#32 = .ok .finder ∧ decode 0x00000050#32 = .ok .place ∧
  decode 0x00000060#32 = .ok .mask

/-- R90, R92, R93: every command has exactly one word, and a word decodes to a command only if it is that
command's word; so no operand bit is dropped and no two words share a meaning. -/
def Obligations.DecodeIsTheInverseOfEncode : Prop :=
  ∀ (w : Word) (i : Instr), decode w = .ok i ↔ w = encode i

/-- R93: a word selects the row whose OP is w[7:0] provided every must-be-zero bit is 0, equivalently the
row with w AND mask = match; at most one row matches. -/
def Obligations.DecodeSelectsTheMatchingRow : Prop :=
  ∀ w : Word,
    (∀ r ∈ opcodeMap, (r.matches w = true ↔ opField w = r.op ∧ w &&& r.format.mustBeZero = 0#32) ∧
      (r.matches w = true ↔ w &&& r.format.mask = r.pattern) ∧
      (r.matches w = true ↔ ∃ i, decode w = .ok i ∧ i.mnemonic = r.mnemonic)) ∧
    (∀ r ∈ opcodeMap, ∀ r' ∈ opcodeMap, r.matches w = true → r'.matches w = true → r = r')

/-- R94: a word is illegal in the two cases; it is accepted like any other, and its completion raises
ILLEGAL_CMD and has no other effect. -/
def Obligations.IllegalWordsCompleteWithIllegalCmd : Prop :=
  ∀ w : Word,
    ((∃ e, decode w = .error e) ↔
      (let op := (opField w).toNat
       (0x04 ≤ op ∧ op ≤ 0x0F) ∨ (0x12 ≤ op ∧ op ≤ 0x1F) ∨ (0x21 ≤ op ∧ op ≤ 0x2F) ∨
       (0x35 ≤ op ∧ op ≤ 0x3F) ∨ (0x46 ≤ op ∧ op ≤ 0x4F) ∨ (0x51 ≤ op ∧ op ≤ 0x5F) ∨ 0x61 ≤ op) ∨
      (∃ r ∈ opcodeMap, r.op = opField w ∧ w &&& r.format.mustBeZero ≠ 0#32)) ∧
    (∀ e s, decode w = .error e →
      (s.status.state ≠ .generating → ∃ r,
        hostAccess (.wr32 0#13 w) s =
          { s with response := r, status := { s.status with state := .generating }, curCmd := some w }) ∧
      (s.status.state = .generating → s.curCmd = some w → coreTurn s = .next (completedErr s .illegalCmd)))

/-! ### The lifecycle of a command -/

/-- R281, R326, R71: the core's step runs exactly the command its latch decodes to; `step` takes the core's
event off first, or finds no event left. While STATE is not GENERATING the core's turn changes nothing but
the list of events. A host event is `hostAccess` on the state with that event taken off. (The list of events
and the core's turn when it is empty are the model's: log entries 1 and 6.) -/
def Obligations.StepRunsTheDecodedCommand : Prop :=
  (∀ (s : State) (w : Word) (i : Instr), s.status.state = .generating → s.curCmd = some w → decode w = .ok i →
    (s.events = [] → step s = exec i s) ∧
    (∀ es, s.events = .core :: es → step s = exec i { s with events := es })) ∧
  (∀ s : State, s.status.state ≠ .generating →
    (s.events = [] → step s = .next s) ∧
    (∀ es, s.events = .core :: es → step s = .next { s with events := es })) ∧
  (∀ s : State,
    (s.events = [] → step s = coreTurn s) ∧
    (∀ es, s.events = .core :: es → step s = coreTurn { s with events := es }) ∧
    (∀ a es, s.events = .host a :: es → step s = .next (hostAccess a { s with events := es })))

/-- R280: a 32-bit write to CMD is accepted, whatever the word, when STATE is not GENERATING; STATUS then
shows GENERATING until the completion step; while GENERATING the write is dropped and nothing is queued. -/
def Obligations.AcceptanceLatchesTheWord : Prop :=
  (∀ (s : State) (w : Word), s.status.state ≠ .generating → ∃ r,
    hostAccess (.wr32 0#13 w) s =
      { s with response := r, status := { s.status with state := .generating }, curCmd := some w }) ∧
  (∀ (s : State) (a : Access), s.status.state = .generating →
    (hostAccess a s).status.state = .generating ∧ (hostAccess a s).curCmd = s.curCmd ∧
    (hostAccess a s).status.word.extractLsb' 0 2 = 1#2) ∧
  (∀ (s : State) (w : Word), s.status.state = .generating → ∃ r,
    hostAccess (.wr32 0#13 w) s = { s with response := r, status := { s.status with ovr := true } })

/-- R282 with the causes and priority of R310 and R313: every command but SOFTRESET answers a next state
whose LASTERR tells of this command, whose ERR keeps the first error, and whose STATE is READY; OVR is
changed by CLRERR's own pseudocode only, as ERR is. An illegal word completes with ILLEGAL_CMD the same
way. -/
def Obligations.CompletionSetsStatusByTheError : Prop :=
  (∀ (i : Instr) (s : State), i ≠ .softreset → ∃ t, exec i s = .next t ∧ t.curCmd = none ∧
    t.status =
      (match errorOf i s with
       | some e => failedStatus s e
       | none => if i = .clrerr then ⟨.ready, false, false, none⟩ else okStatus s)) ∧
  (∀ (s : State) (w : Word) (e : DecodeError), s.status.state = .generating → s.curCmd = some w →
    decode w = .error e → ∃ t, coreTurn s = .next t ∧ t.curCmd = none ∧ t.status = failedStatus s .illegalCmd)

/-- R312: a command other than GENERATE that raises writes only STATUS; GENERATE has cleared the grid and
SYMINFO too; no error writes OVR. CUR_CMD is cleared by the completion (R281). -/
def Obligations.ErringCommandsWriteOnlyStatus : Prop :=
  (∀ (i : Instr) (s : State) (e : Err), i ≠ .generate → errorOf i s = some e →
    exec i s = .next (completedErr s e)) ∧
  (∀ (s : State) (e : Err), errorOf .generate s = some e → e = .dataTooLarge ∧
    ∃ t, exec .generate s = .next t ∧ GridCleared s.mem t.mem ∧
      t = { completedErr s .dataTooLarge with syminfo := ⟨0#8, 0#8, 0#8, 0#8⟩, mem := t.mem }) ∧
  (∀ (s : State) (w : Word) (e : DecodeError), s.status.state = .generating → s.curCmd = some w →
    decode w = .error e → coreTurn s = .next (completedErr s .illegalCmd)) ∧
  (∀ (s : State) (e : Err), (failedStatus s e).ovr = s.status.ovr)

/-! ### Sequencer and version commands -/

/-- R290. -/
def Obligations.NopOnlyCompletes : Prop :=
  (∀ s : State, exec .nop s = .next (completedOk s)) ∧
  decode 0x00000000#32 = .ok .nop ∧ (∀ w, opField w = 0#8 → w ≠ 0#32 → decode w = .error .reservedBits) ∧
  (okStatus State.reset).word = 0x00000002#32

/-- R296: CLRERR clears ERR, OVR and LASTERR and changes nothing else; an illegal CLRERR word clears
nothing; a write dropped while CLRERR is running is forgotten by its completion. -/
def Obligations.ClrerrClearsTheErrorRecord : Prop :=
  (∀ s : State, exec .clrerr s =
    .next { s with status := ⟨.ready, false, false, none⟩, curCmd := none }) ∧
  decode 0x00000003#32 = .ok .clrerr ∧
  (∀ (s : State) (w : Word), opField w = 3#8 → w ≠ 3#32 → s.status.state = .generating → s.curCmd = some w →
    coreTurn s = .next (completedErr s .illegalCmd)) ∧
  (∀ (s : State) (a : Access), s.status.state = .generating → s.curCmd = some 3#32 → isWrite a = true →
    ¬ raisesBusError a → (hostAccess a s).status.ovr = true ∧
    ∃ t, coreTurn (hostAccess a s) = .next t ∧ t.status.ovr = false) ∧
  (Status.mk .ready false false (some .dataTooLarge)).word = 0x12#32 ∧
  (Status.mk .ready false false none).word = 0x2#32

/-- R293: SOFTRESET gives every register and the grid the reset values of R37 and ends IDLE; INBUF and
CWBUF, and every byte that is no grid cell, keep their contents; an illegal word with its opcode is not
one. -/
def Obligations.SoftresetRestoresTheResetState : Prop :=
  (∀ s : State, ∃ t, exec .softreset s = .next t ∧ GridCleared s.mem t.mem ∧
    t = { s with
      status := ⟨.idle, false, false, none⟩, syminfo := ⟨0#8, 0#8, 0#8, 0#8⟩, len := 0#8, qz := 4#8,
      result := 0#8, curCmd := none, mem := t.mem }) ∧
  decode 0x00000002#32 = .ok .softreset ∧
  (∀ (s : State) (w : Word), opField w = 2#8 → w ≠ 2#32 → s.status.state = .generating → s.curCmd = some w →
    coreTurn s = .next (completedErr s .illegalCmd))

/-- R122: SELVER sets the four SYMINFO fields from LEN by the thresholds and the version table. -/
def Obligations.SelverSelectsTheVersionFromLen : Prop :=
  (∀ s : State, exec .selver s = .next { completedOk s with syminfo := symRow (versionFor s.len.toNat) }) ∧
  decode 0x00000010#32 = .ok .selver ∧ (symRow (versionFor 5)).word = 0x0A221902#32

/-- R124: an input that selects version 2, 3 or 4 fits, and only version 5 overflows, from 107 bytes on. -/
def Obligations.SelectedVersionFitsUpTo106Bytes : Prop :=
  (∀ n, 1 ≤ n → n ≤ 46 → 12 + 8 * n ≤ (VT (selectVersion n)).capBits ∧ selectVersion n ≠ 5) ∧
  (∀ n, 1 ≤ n → n ≤ 255 →
    ((VT (selectVersion n)).capBits < 12 + 8 * n ↔ 107 ≤ n) ∧
    ((VT (selectVersion n)).capBits < 12 + 8 * n → selectVersion n = 5))

/-- R123: SETVER sets SYMINFO from its operand, or raises BAD_VERSION for 1 and everything above 5. -/
def Obligations.SetverSetsOrRejectsTheVersion : Prop :=
  (∀ (s : State) (a : Byte), a.toNat ∈ [0, 2, 3, 4, 5] →
    exec (.setver a) s = .next { completedOk s with syminfo := symRow a.toNat }) ∧
  (∀ (s : State) (a : Byte), (a.toNat = 1 ∨ 5 < a.toNat) → exec (.setver a) s = .next (completedErr s .badVersion)) ∧
  (∀ a : Byte, decode (BitVec.ofNat 32 (0x11 + 256 * a.toNat)) = .ok (.setver a)) ∧
  (symRow 5).word = 0x1A6C2505#32

/-! ### GF(256) -/

/-- R161, R160, R166: GFMUL leaves in RESULT the product of its operands as polynomials over GF(2) reduced
modulo 0x11D, and changes nothing else. -/
def Obligations.GfmulMultipliesModulo11D : Prop :=
  ∀ (s : State) (a b : Byte), exec (.gfmul a b) s = .next { completedOk s with result := fieldMul a b }

/-- R160: gf_mul is commutative and associative, has 1 and 0, and distributes over the field's addition. -/
def Obligations.GfMulIsAFieldMultiplication : Prop :=
  ∀ a b c : Byte, gfMul a b = gfMul b a ∧ gfMul (gfMul a b) c = gfMul a (gfMul b c) ∧
    gfMul 1#8 b = b ∧ gfMul 0#8 b = 0#8 ∧ gfMul a (b ^^^ c) = gfMul a b ^^^ gfMul a c ∧
    (a ≠ 0#8 → ∃ d, gfMul a d = 1#8)

/-- R162: the EXP table is the recurrence's, its second half repeats the first, and no entry is 0. -/
def Obligations.ExpTableFollowsTheRecurrence : Prop :=
  EXP 0 = 1#8 ∧
  (∀ i, i ≤ 253 → (EXP (i + 1)).toNat =
    (let t := 2 * (EXP i).toNat
     if 256 ≤ t then t ^^^ 0x11D else t)) ∧
  (∀ i, 255 ≤ i → i ≤ 511 → EXP i = EXP (i - 255)) ∧
  (∀ i, i ≤ 511 → EXP i = alphaPow (i % 255) ∧ EXP i ≠ 0#8)

/-- R167, R162: GFEXP leaves α^(idx mod 255) in RESULT and changes nothing else. -/
def Obligations.GfexpAnswersAPowerOfAlpha : Prop :=
  (∀ (s : State) (idx : BitVec 9), exec (.gfexp idx) s =
    .next { completedOk s with result := alphaPow (idx.toNat % 255) }) ∧
  (∀ idx : BitVec 9, decode (BitVec.ofNat 32 (0x31 + 256 * (idx.toNat % 256) + 65536 * (idx.toNat / 256))) =
    .ok (.gfexp idx))

/-- R168, R163: GFLOG leaves in RESULT the exponent below 255 whose power of α the operand is, and 0 for
the operand 0, and changes nothing else. -/
def Obligations.GflogAnswersTheExponent : Prop :=
  (∀ (s : State) (a : Byte), a ≠ 0#8 → ∃ e : Nat, e < 255 ∧ alphaPow e = a ∧
    exec (.gflog a) s = .next { completedOk s with result := BitVec.ofNat 8 e }) ∧
  (∀ s : State, exec (.gflog 0#8) s = .next { completedOk s with result := 0#8 })

/-- R169, R164: under GENERIC, GFGEN n, j leaves in RESULT the exponent of the coefficient of x^(n-1-j) of
Π_{i<n} (x - α^i), and changes nothing else. -/
def Obligations.GfgenAnswersAGeneratorCoefficient : Prop :=
  ∀ (s : State) (n j : Byte), 1 ≤ n.toNat → n.toNat ≤ 26 → j.toNat < n.toNat → s.params.genMode = .generic →
    ∃ e : Nat, e < 255 ∧ alphaPow e = (generatorPoly n.toNat).getD (j.toNat + 1) 0#8 ∧
      exec (.gfgen n j) s = .next { completedOk s with result := BitVec.ofNat 8 e }

/-- R165: under LEGACY_HOLES the rows 7, 10, 15 and 20 are GENERIC's and every other row is zeros. -/
def Obligations.GfgenUnderLegacyHoles : Prop :=
  ∀ (s : State) (n j : Byte), 1 ≤ n.toNat → n.toNat ≤ 26 → j.toNat < n.toNat → s.params.genMode = .legacyHoles →
    (n.toNat ∈ [7, 10, 15, 20] → ∃ e : Nat, e < 255 ∧
      alphaPow e = (generatorPoly n.toNat).getD (j.toNat + 1) 0#8 ∧
      exec (.gfgen n j) s = .next { completedOk s with result := BitVec.ofNat 8 e }) ∧
    (n.toNat ∉ [7, 10, 15, 20] → exec (.gfgen n j) s = .next { completedOk s with result := 0#8 })

/-! ### Reed-Solomon -/

/-- R171: RSENC n, k completes for every count 1..26 and reach k + n ≤ 256, and changes no register and no
byte but CWBUF[k..k+n-1]. -/
def Obligations.RsencWritesOnlyItsParityBytes : Prop :=
  ∀ (s : State) (n k : Byte), 1 ≤ n.toNat → n.toNat ≤ 26 → k.toNat + n.toNat ≤ 256 →
    ∃ t, exec (.rsenc n k) s = .next t ∧ OnlyMemory s t ∧
      ∀ a, (a < 0x200 + k.toNat ∨ 0x200 + k.toNat + n.toNat ≤ a) → t.mem.read a = s.mem.read a

/-- R172, R165: under GENERIC, and under LEGACY_HOLES for the counts it populates, the data bytes and the
parity RSENC appends to them vanish at α^0, ..., α^(n-1). -/
def Obligations.RsencCodewordVanishesAtTheRoots : Prop :=
  ∀ (s : State) (n k : Byte), 1 ≤ n.toNat → n.toNat ≤ 26 → k.toNat + n.toNat ≤ 256 →
    (s.params.genMode = .generic ∨ n.toNat ∈ [7, 10, 15, 20]) → ∃ t, exec (.rsenc n k) s = .next t ∧
      codewords t.mem k.toNat = codewords s.mem k.toNat ∧
      SyndromesVanish n.toNat (codewords t.mem (k.toNat + n.toNat))

/-- R171, R165: under LEGACY_HOLES with a count that is not populated, every nonzero factor XORs itself
into every position. -/
def Obligations.RsencDegeneratesInALegacyHole : Prop :=
  ∀ (s : State) (n k : Byte), 1 ≤ n.toNat → n.toNat ≤ 26 → k.toNat + n.toNat ≤ 256 →
    s.params.genMode = .legacyHoles → n.toNat ∉ [7, 10, 15, 20] → ∃ t, exec (.rsenc n k) s = .next t ∧
      ∀ j, j < n.toNat → t.mem.cwbuf (k.toNat + j) =
        ((codewords s.mem k.toNat).foldl holeStep (List.replicate n.toNat 0#8)).getD j 0#8

/-- R171: no data bytes, or data bytes that are all 0, give n zero parity bytes, in either mode. -/
def Obligations.RsencOfZeroDataIsZero : Prop :=
  ∀ (s : State) (n k : Byte), 1 ≤ n.toNat → n.toNat ≤ 26 → k.toNat + n.toNat ≤ 256 →
    (∀ i, i < k.toNat → s.mem.cwbuf i = 0#8) →
    ∃ t, exec (.rsenc n k) s = .next t ∧ ∀ j, j < n.toNat → t.mem.cwbuf (k.toNat + j) = 0#8

/-! ### The bit stream -/

/-- R143, R142: when the input fits the current version, BITSTREAM leaves the closed form in
CWBUF[0..D-1], D the version's data codewords, and changes nothing else. -/
def Obligations.BitstreamWritesTheClosedForm : Prop :=
  ∀ s : State, HasVersion s → 12 + 8 * s.len.toNat ≤ capacity s.syminfo.version.toNat →
    ∃ t, exec .bitstream s = .next t ∧ OnlyMemory s t ∧
      (∀ j, j < capacity s.syminfo.version.toNat / 8 →
        (t.mem.cwbuf j).toNat = streamClosed s.len.toNat (fun i => (s.mem.inbuf i).toNat) j) ∧
      (∀ a, (a < 0x200 ∨ 0x200 + capacity s.syminfo.version.toNat / 8 ≤ a) → t.mem.read a = s.mem.read a)

/-- R142: an input that overflows under TRUNCATE gives the first bits of mode, count and payload, with no
terminator and no pad, and raises nothing. -/
def Obligations.BitstreamClipsUnderTruncate : Prop :=
  ∀ s : State, HasVersion s → capacity s.syminfo.version.toNat < 12 + 8 * s.len.toNat →
    s.params.oversize = .truncate →
    ∃ t, exec .bitstream s = .next t ∧ OnlyMemory s t ∧
      (∀ j, j < capacity s.syminfo.version.toNat / 8 →
        (t.mem.cwbuf j).toNat = streamClipped s.len.toNat (fun i => (s.mem.inbuf i).toNat) j) ∧
      (∀ a, (a < 0x200 ∨ 0x200 + capacity s.syminfo.version.toNat / 8 ≤ a) → t.mem.read a = s.mem.read a)

/-! ### Function patterns -/

/-- R200: CLEARGRID makes all 37 x 37 cells light data cells and changes nothing else; every GRID window
byte then reads 0. -/
def Obligations.CleargridClearsEveryCell : Prop :=
  (∀ s : State, ∃ t, exec .cleargrid s = .next t ∧ OnlyMemory s t ∧ GridCleared s.mem t.mem ∧
    ∀ off, 0x1000 ≤ off → off < 0x2000 → t.mem.arrayByte off = 0#8) ∧
  decode 0x00000040#32 = .ok .cleargrid

/-- R205 (R202 to R204): FINDER stamps three finders, with their separators when reserved, and changes
nothing else. -/
def Obligations.FinderStampsFindersAndSeparators : Prop :=
  ∀ s : State, HasVersion s → ∃ t, exec .finder s = .next t ∧ OnlyMemory s t ∧
    Stamped (finderPattern s.params.separators s.syminfo.moduleCount.toNat) s.mem t.mem

/-- R207 (R206): TIMING stamps the two lines, dark at even positions, on the cells that are no function
cells yet, and changes nothing else. -/
def Obligations.TimingStampsTheFreeTimingCells : Prop :=
  ∀ s : State, HasVersion s → ∃ t, exec .timing s = .next t ∧ OnlyMemory s t ∧
    Stamped (fun r c => if s.mem.func r c then none else timingPattern s.syminfo.moduleCount.toNat r c)
      s.mem t.mem

/-- R210 (R208, R209): ALIGN stamps one motif, centred at (m-7, m-7), and changes nothing else. -/
def Obligations.AlignStampsOneMotif : Prop :=
  ∀ s : State, HasVersion s → ∃ t, exec .align s = .next t ∧ OnlyMemory s t ∧
    Stamped (alignPattern s.syminfo.moduleCount.toNat) s.mem t.mem

/-- R212 (R211): RSVFMT makes the 30 format cells and the dark module light function cells and changes
nothing else. -/
def Obligations.RsvfmtReservesTheFormatCells : Prop :=
  ∀ s : State, HasVersion s → ∃ t, exec .rsvfmt s = .next t ∧ OnlyMemory s t ∧
    Stamped (formatPattern (List.replicate 15 false) false s.syminfo.moduleCount.toNat) s.mem t.mem

/-- R214 (R211, R213): FORMAT stamps the format word in both runs and the dark module dark, and changes
nothing else. -/
def Obligations.FormatStampsTheFormatWord : Prop :=
  ∀ s : State, HasVersion s → ∃ t, exec .format s = .next t ∧ OnlyMemory s t ∧
    Stamped (formatPattern formatBits true s.syminfo.moduleCount.toNat) s.mem t.mem

/-- R215: the function cells and data cells after CLEARGRID, FINDER, TIMING, ALIGN and RSVFMT, with
separators reserved and without, and the 7 remainder cells. -/
def Obligations.FunctionAndDataCellCounts : Prop :=
  ∀ s : State, HasVersion s →
    ∃ t, runAll [.cleargrid, .finder, .timing, .align, .rsvfmt] s = some t ∧
      (let m := s.syminfo.moduleCount.toNat
       (s.params.separators = .reserved →
         functionCells t.mem m = 192 + 2 * (m - 16) + 25 + 31 ∧
         m * m - functionCells t.mem m = 8 * (s.syminfo.dataCw.toNat + s.syminfo.eccCw.toNat) + 7) ∧
       (s.params.separators = .none →
         m * m - functionCells t.mem m = 8 * (s.syminfo.dataCw.toNat + s.syminfo.eccCw.toNat) + 7 + 45))

/-! ### Placement and mask -/

/-- R250: for every odd side of at least 7, zz(m) has (m-1)/2 column pairs of 2m cells, visited from the
right edge; pair k goes upward exactly when k is even, the right column before the left at each row, with
column 6 redirected to 5; each cell whose column is not 6 is visited exactly once, and none of column 6. -/
def Obligations.ZigzagVisitsEveryCellOffColumnSix : Prop :=
  ∀ m, m % 2 = 1 → 7 ≤ m →
    (zigzag m).length = (m - 1) / 2 * (2 * m) ∧
    (∀ k vert side, k < (m - 1) / 2 → vert < m → side < 2 →
      (zigzag m)[2 * m * k + 2 * vert + side]? =
        some (if k % 2 = 0 then m - 1 - vert else vert,
          (if m - 1 - 2 * k ≤ 6 then m - 2 - 2 * k else m - 1 - 2 * k) - side)) ∧
    (zigzag m).Nodup ∧ (∀ r c, (r, c) ∈ zigzag m ↔ r < m ∧ c < m ∧ c ≠ 6)

/-- R251: PLACE gives the data cell at each visit its stream bit, or 0 once the stream is used up; it
writes no function cell, no ISFUNC bit and nothing else. -/
def Obligations.PlaceWritesTheStreamInZigzagOrder : Prop :=
  ∀ s : State, HasVersion s → ∃ t, exec .place s = .next t ∧ OnlyMemory s t ∧
    (let m := s.syminfo.moduleCount.toNat
     let total := s.syminfo.dataCw.toNat + s.syminfo.eccCw.toNat
     (∀ r c, t.mem.func r c = s.mem.func r c) ∧
     (∀ p r c, (zigzag m)[p]? = some (r, c) → s.mem.func r c = false →
       t.mem.dark r c = placedBit s.mem m total p) ∧
     (∀ a, (∀ r c, (r, c) ∈ zigzag m → s.mem.func r c = false → a ≠ 0x1000 + 64 * r + c) →
       t.mem.read a = s.mem.read a))

/-- R252: PLACE reads MODULES of no cell, keeps function cells, and done twice is done once. -/
def Obligations.PlaceDependsOnFunctionCellsAndCodewordsOnly : Prop :=
  (∀ s s' t t' : State, HasVersion s → s'.syminfo = s.syminfo →
    (∀ r c, s'.mem.func r c = s.mem.func r c) → (∀ j, j < 256 → s'.mem.cwbuf j = s.mem.cwbuf j) →
    exec .place s = .next t → exec .place s' = .next t' →
    ∀ r c, (r, c) ∈ zigzag s.syminfo.moduleCount.toNat → s.mem.func r c = false →
      t'.mem.dark r c = t.mem.dark r c) ∧
  (∀ s t : State, exec .place s = .next t → ∀ r c, s.mem.func r c = true → t.mem.dark r c = s.mem.dark r c) ∧
  (∀ s t u : State, HasVersion s → exec .place s = .next t → exec .place t = .next u →
    ∀ a, u.mem.read a = t.mem.read a)

/-- R270: MASK flips each data cell of the m x m square with r + c even, and changes nothing else; two
MASKs leave every cell as it was. -/
def Obligations.MaskFlipsTheEvenDataCells : Prop :=
  ∀ s : State, HasVersion s → ∃ t, exec .mask s = .next t ∧ OnlyMemory s t ∧
    (let m := s.syminfo.moduleCount.toNat
     (∀ r c, t.mem.func r c = s.mem.func r c) ∧
     (∀ r c, r < m → c < m → t.mem.dark r c =
       (s.mem.dark r c ^^ (!s.mem.func r c && decide ((r + c) % 2 = 0)))) ∧
     (∀ a, (∀ r c, r < m → c < m → s.mem.func r c = false → (r + c) % 2 = 0 → a ≠ 0x1000 + 64 * r + c) →
       t.mem.read a = s.mem.read a)) ∧
    ∃ u, exec .mask t = .next u ∧
      (∀ r c, u.mem.dark r c = s.mem.dark r c ∧ u.mem.func r c = s.mem.func r c) ∧
      (∀ a, ¬ isCellAddr a → u.mem.read a = s.mem.read a)

/-! ### GENERATE -/

/-- R288: with LEN = 0 GENERATE clears the grid, sets SYMINFO to 0, raises nothing and changes nothing
else. -/
def Obligations.GenerateOfEmptyInput : Prop :=
  ∀ s : State, s.len = 0#8 → ∃ t, exec .generate s = .next t ∧ GridCleared s.mem t.mem ∧
    t = { completedOk s with syminfo := ⟨0#8, 0#8, 0#8, 0#8⟩, mem := t.mem }

/-- R288: for every nonempty input that fits, and every nonempty input under TRUNCATE, GENERATE raises
nothing, sets SYMINFO by the selected version, and changes no register, no INBUF byte and no CWBUF byte
beyond the codeword stream. -/
def Obligations.GenerateCompletesWithItsVersion : Prop :=
  ∀ s : State, s.len ≠ 0#8 → (s.params.oversize = .truncate ∨ s.len.toNat ≤ 106) →
    ∃ t, exec .generate s = .next t ∧
      (let y := symRow (versionFor s.len.toNat)
       t = { completedOk s with syminfo := y, mem := t.mem } ∧
       ∀ a, ¬ isCellAddr a → (a < 0x200 ∨ 0x200 + y.dataCw.toNat + y.eccCw.toNat ≤ a) →
         t.mem.read a = s.mem.read a)

/-- R288, R345: GENERATE leaves the very state that its stages leave when the host runs them as separate
commands in its order. -/
def Obligations.GenerateEqualsItsStagesByHand : Prop :=
  ∀ s t : State, s.len ≠ 0#8 → (s.params.oversize = .truncate ∨ s.len.toNat ≤ 106) →
    exec .generate s = .next t → runAll (stagesByHand (versionFor s.len.toNat)) s = some t

/-- R289: what GENERATE leaves depends only on LEN, INBUF[0..LEN-1] and the parameters; CWBUF from
dcw + ecc on is untouched; the symbol's side is 17 + 4 * version and odd. -/
def Obligations.GenerateDependsOnItsInputOnly : Prop :=
  (∀ s s' t t' : State, s'.len = s.len → s'.params = s.params →
    (∀ i, i < s.len.toNat → s'.mem.inbuf i = s.mem.inbuf i) →
    exec .generate s = .next t → exec .generate s' = .next t' →
    t'.syminfo = t.syminfo ∧ t'.status.lasterr = t.status.lasterr ∧
    (∀ r c, t'.mem.dark r c = t.mem.dark r c ∧ t'.mem.func r c = t.mem.func r c) ∧
    (∀ j, j < t.syminfo.dataCw.toNat + t.syminfo.eccCw.toNat → t'.mem.cwbuf j = t.mem.cwbuf j)) ∧
  (∀ s t : State, exec .generate s = .next t →
    (∀ j, t.syminfo.dataCw.toNat + t.syminfo.eccCw.toNat ≤ j → j < 256 → t.mem.cwbuf j = s.mem.cwbuf j) ∧
    (t.syminfo.version ≠ 0#8 → t.syminfo.moduleCount.toNat = 17 + 4 * t.syminfo.version.toNat ∧
      t.syminfo.moduleCount.toNat % 2 = 1))

/-- R142, R143, R172, R173: the codeword stream GENERATE leaves in CWBUF is the closed form of the input
followed by one block of parity, and every syndrome of it is 0 under GENERIC, and under LEGACY_HOLES for the
counts it populates (R165), those of versions 2 to 4. -/
def Obligations.GenerateLeavesAValidCodewordStream : Prop :=
  ∀ s t : State, s.len ≠ 0#8 → s.len.toNat ≤ 106 → exec .generate s = .next t →
    (let y := symRow (versionFor s.len.toNat)
     (∀ j, j < y.dataCw.toNat →
       (t.mem.cwbuf j).toNat = streamClosed s.len.toNat (fun i => (s.mem.inbuf i).toNat) j) ∧
     (s.params.genMode = .generic ∨ y.eccCw.toNat ∈ [7, 10, 15, 20] →
       SyndromesVanish y.eccCw.toNat (codewords t.mem (y.dataCw.toNat + y.eccCw.toNat))))

/-- R288, R271, R32: every cell of the symbol GENERATE builds. A cell of the finder, separator, timing,
alignment or format pattern is a function cell with the pattern's value; every other cell zz(m) visits is
a data cell holding the codeword bit of its visit XOR the mask; a data cell of column 6, which no visit
reaches, holds the mask alone. Cells outside the square are 0. -/
def Obligations.GenerateBuildsTheMaskedSymbol : Prop :=
  ∀ s t : State, s.len ≠ 0#8 → (s.params.oversize = .truncate ∨ s.len.toNat ≤ 106) →
    exec .generate s = .next t →
    (let y := symRow (versionFor s.len.toNat)
     let m := y.moduleCount.toNat
     let pattern := symbolPattern s.params.separators m
     (∀ r c, r < m → c < m → t.mem.func r c = (pattern r c).isSome) ∧
     (∀ r c v, r < m → c < m → pattern r c = some v → t.mem.dark r c = v) ∧
     (∀ p r c, (zigzag m)[p]? = some (r, c) → pattern r c = none →
       t.mem.dark r c =
         (placedBit t.mem m (y.dataCw.toNat + y.eccCw.toNat) p ^^ decide ((r + c) % 2 = 0))) ∧
     (∀ r, r < m → pattern r 6 = none → t.mem.dark r 6 = decide ((r + 6) % 2 = 0)) ∧
     (∀ r c, r < 37 → c < 37 → (m ≤ r ∨ m ≤ c) → t.mem.dark r c = false ∧ t.mem.func r c = false))

/-! ### The bus -/

/-- R69, R62: an access raises a bus error exactly in the rule's cases, GENERATING or not; then the answer
is an error with data 0 and nothing else changes. (Data 0 in the answer to a write: log entry 11.) -/
def Obligations.BusErrorsChangeNothing : Prop :=
  ∀ (s : State) (a : Access),
    (raisesBusError a → hostAccess a s = { s with response := some ⟨true, 0#32⟩ }) ∧
    (¬ raisesBusError a → ∃ d, (hostAccess a s).response = some ⟨false, d⟩)

/-- R21, R22, R26 to R29, R61: a 32-bit read of a register while no command runs shows its fields at their
bit positions, 0 in every unlisted bit, and changes nothing. (Where the answer stands: log entry 11.) -/
def Obligations.RegisterReadsShowTheirFields : Prop :=
  ∀ s : State, s.status.state ≠ .generating →
    hostAccess (.rd32 0x000#13) s = answered s 0#32 ∧
    (∃ v : Word, hostAccess (.rd32 0x004#13) s = answered s v ∧
      (v.extractLsb' 0 2).toNat = s.status.state.code ∧ v.getLsbD 2 = s.status.ovr ∧
      v.getLsbD 3 = s.status.lasterr ∧ (v.extractLsb' 4 4).toNat = errField s.status.err ∧
      v.extractLsb' 8 24 = 0#24) ∧
    (∃ v : Word, hostAccess (.rd32 0x008#13) s = answered s v ∧
      v.extractLsb' 0 8 = s.syminfo.version ∧ v.extractLsb' 8 8 = s.syminfo.moduleCount ∧
      v.extractLsb' 16 8 = s.syminfo.dataCw ∧ v.extractLsb' 24 8 = s.syminfo.eccCw) ∧
    hostAccess (.rd32 0x00C#13) s = answered s (BitVec.ofNat 32 s.len.toNat) ∧
    hostAccess (.rd32 0x010#13) s = answered s (BitVec.ofNat 32 s.qz.toNat) ∧
    hostAccess (.rd32 0x014#13) s = answered s (BitVec.ofNat 32 s.result.toNat)

/-- R63 to R65: 8-bit and 32-bit reads of the arrays while no command runs, in little-endian order, and
their absence of side effects. (A byte is answered zero-extended: log entry 11.) -/
def Obligations.ArrayReadsAreLittleEndian : Prop :=
  ∀ (s : State) (off : Offset), s.status.state ≠ .generating → inArrays off.toNat →
    hostAccess (.rd8 off) s = answered s (BitVec.ofNat 32 (shownByte s.mem off.toNat).toNat) ∧
    (off.toNat % 4 = 0 → ∃ v : Word, hostAccess (.rd32 off) s = answered s v ∧
      ∀ i, i < 4 → v.extractLsb' (8 * i) 8 = shownByte s.mem (off.toNat + i))

/-- R66: the effects of the allowed writes to the registers other than CMD, in full. (A write is answered
with data 0: log entry 11.) -/
def Obligations.RegisterWritesHaveTheirSideEffects : Prop :=
  ∀ (s : State) (v : Word), s.status.state ≠ .generating →
    hostAccess (.wr32 0x00C#13 v) s =
      { answered s 0#32 with len := v.extractLsb' 0 8, status := { s.status with state := .idle } } ∧
    hostAccess (.wr32 0x010#13 v) s = { answered s 0#32 with qz := v.extractLsb' 0 8 } ∧
    (∀ off : Offset, off = 0x004#13 ∨ off = 0x008#13 ∨ off = 0x014#13 →
      hostAccess (.wr32 off v) s = answered s 0#32)

/-- R63 to R66: an allowed write to an array stores exactly its bytes (a cell's two bits, an unbacked cell
nothing), sets IDLE when it falls in INBUF, and changes nothing else. (A write is answered with data 0: log
entry 11.) -/
def Obligations.ArrayWritesStoreTheirBytes : Prop :=
  ∀ (s : State) (off : Offset), s.status.state ≠ .generating → inArrays off.toNat →
    (∀ v : Byte,
      (let t := hostAccess (.wr8 off v) s
       t = { answered s 0#32 with
         mem := t.mem
         status := if off.toNat < 0x200 then { s.status with state := .idle } else s.status } ∧
       shownByte t.mem off.toNat = keptByte off.toNat v ∧
       ∀ a, a ≠ off.toNat → t.mem.read a = s.mem.read a)) ∧
    (∀ v : Word, off.toNat % 4 = 0 →
      (let t := hostAccess (.wr32 off v) s
       t = { answered s 0#32 with
         mem := t.mem
         status := if off.toNat < 0x200 then { s.status with state := .idle } else s.status } ∧
       (∀ i, i < 4 → shownByte t.mem (off.toNat + i) = keptByte (off.toNat + i) (v.extractLsb' (8 * i) 8)) ∧
       ∀ a, (a < off.toNat ∨ off.toNat + 4 ≤ a) → t.mem.read a = s.mem.read a))

/-- R67: a write that arrives while GENERATING and raises no bus error changes nothing but OVR. -/
def Obligations.WritesWhileGeneratingAreDropped : Prop :=
  ∀ (s : State) (a : Access), s.status.state = .generating → isWrite a = true → ¬ raisesBusError a →
    ∃ r, hostAccess a s = { s with response := r, status := { s.status with ovr := true } }

/-- R68, R73: while GENERATING a read of STATUS is exact, every other read that raises no bus error answers
some value of its width without an error, and no read changes anything of the block's. (The value is free;
`draws` counts the draws: log entry 3.) -/
def Obligations.ReadsWhileGenerating : Prop :=
  ∀ s : State, s.status.state = .generating →
    hostAccess (.rd32 0x004#13) s = answered s s.status.word ∧
    (∀ a, isWrite a = false → ¬ raisesBusError a → ∃ (d : Word) (n : Nat),
      hostAccess a s = { answered s d with draws := n } ∧ (∀ off, a = .rd8 off → d.toNat < 256))

/-! ### Reset, invariants, whole-machine rules -/

/-- R340, R37, R341: whatever the machine was doing, the reset event leaves every register and flag at its
reset value, no command latched, the grid 0, and INBUF and CWBUF holding the event's bytes. The
parameters, the events still to come and the count of free values are the model's (log entry 15). -/
def Obligations.ResetEventGivesTheResetValues : Prop :=
  ∀ (s : State) (ib cb : Vector Byte 256) (es : List Event), s.events = .reset ib cb :: es →
    ∃ t, step s = .next t ∧
      t.status = ⟨.idle, false, false, none⟩ ∧ t.syminfo = ⟨0#8, 0#8, 0#8, 0#8⟩ ∧ t.len = 0#8 ∧
      t.qz = 4#8 ∧ t.result = 0#8 ∧ t.curCmd = none ∧
      (∀ r c, t.mem.dark r c = false ∧ t.mem.func r c = false) ∧
      (∀ (i : Nat) (h : i < 256), t.mem.inbuf i = ib[i] ∧ t.mem.cwbuf i = cb[i]) ∧
      t.params = s.params ∧ t.events = es ∧ t.draws = s.draws

/-- The invariant holds of the machine right after reset (R37). -/
def Obligations.ResetStateMeetsTheInvariant : Prop := Inv State.reset

/-- R26, R32, R35: every step keeps the invariant: memory canonical and holding only what the block has,
SYMINFO one of the table's rows, a command latched exactly while GENERATING. -/
def Obligations.EveryStepKeepsTheInvariant : Prop :=
  ∀ s t : State, Inv s → step s = .next t → Inv t

/-- R281, R311, R314: from a state that meets the invariant no step faults or refuses: every error and bus
error is a next state. -/
def Obligations.NoStepStops : Prop :=
  ∀ s : State, Inv s → ∃ t, step s = .next t

/-- R353: an accepted command completes after finitely many events: unless the platform resets the block
first, the events that precede the core's turn are followed by its completion. (The core has the turn when no
event is left: log entry 6.) -/
def Obligations.AcceptedCommandsComplete : Prop :=
  ∀ s : State, Inv s → s.status.state = .generating → (∀ e ∈ s.events, ∃ a, e = .host a ∨ e = .core) →
    ∃ k t, k ≤ s.events.length + 1 ∧ Sys2Proof.core.run k s = .next t ∧ t.status.state ≠ .generating ∧
      t.curCmd = none

/-- R26 to R31, R6: which commands write which state. No command writes the parameters or INBUF; LEN and
QZ are SOFTRESET's; SYMINFO is SELVER's, SETVER's, GENERATE's and SOFTRESET's; RESULT is the GF commands'
and SOFTRESET's; CWBUF is BITSTREAM's, RSENC's and GENERATE's. -/
def Obligations.EachRegisterHasItsWriters : Prop :=
  ∀ (i : Instr) (s t : State), exec i s = .next t →
    t.params = s.params ∧ t.events = s.events ∧ t.response = s.response ∧ t.draws = s.draws ∧
    (∀ j, j < 256 → t.mem.inbuf j = s.mem.inbuf j) ∧
    (i ≠ .softreset → t.len = s.len ∧ t.qz = s.qz) ∧
    (i.mnemonic ∉ ["SELVER", "SETVER", "GENERATE", "SOFTRESET"] → t.syminfo = s.syminfo) ∧
    (i.mnemonic ∉ ["GFMUL", "GFEXP", "GFLOG", "GFGEN", "SOFTRESET"] → t.result = s.result) ∧
    (i.mnemonic ∉ ["BITSTREAM", "RSENC", "GENERATE"] → ∀ j, j < 256 → t.mem.cwbuf j = s.mem.cwbuf j)

/-- R32, D34: no command changes a cell outside the symbol, except CLEARGRID and those that run it. -/
def Obligations.CellsOutsideTheSymbolAreKept : Prop :=
  ∀ (i : Instr) (s t : State), exec i s = .next t → i.mnemonic ∉ ["CLEARGRID", "GENERATE", "SOFTRESET"] →
    ∀ r c, s.syminfo.moduleCount.toNat ≤ r ∨ s.syminfo.moduleCount.toNat ≤ c →
      t.mem.dark r c = s.mem.dark r c ∧ t.mem.func r c = s.mem.func r c

/-- R24: OVR is set by a host write that arrives while GENERATING and by nothing else, and cleared only by reset,
SOFTRESET and CLRERR. -/
def Obligations.OvrIsSetByDroppedWritesOnly : Prop :=
  ∀ s t : State, step s = .next t →
    (∀ a es, s.events = .host a :: es → isWrite a = true → ¬ raisesBusError a → s.status.state = .generating →
      t.status.ovr = true) ∧
    (s.status.ovr = false → t.status.ovr = true → s.status.state = .generating ∧
      ∃ a es, s.events = .host a :: es ∧ isWrite a = true ∧ ¬ raisesBusError a) ∧
    (s.status.ovr = true → t.status.ovr = false →
      completing s = some .softreset ∨ completing s = some .clrerr ∨ ∃ ib cb es, s.events = .reset ib cb :: es)

/-- R25, R314, R318: ERR keeps the first error through every step but a reset, a SOFTRESET and a CLRERR,
and no host access changes ERR or LASTERR. -/
def Obligations.TheFirstErrorIsKept : Prop :=
  ∀ (s t : State), step s = .next t →
    (∀ e, s.status.err = some e → t.status.err ≠ some e →
      t.status.err = none ∧ (completing s = some .softreset ∨ completing s = some .clrerr ∨
        ∃ ib cb es, s.events = .reset ib cb :: es)) ∧
    (∀ a es, s.events = .host a :: es → t.status.err = s.status.err ∧ t.status.lasterr = s.status.lasterr)
end

