-- ==== Sys2Proof/Laws/Memory.lean ====
section
/-! SUPPORT. What each operation of the sparse memory does: what a byte reads as after it, and that it keeps
the canonical form (`Memory.wf`) and the block's layout (`Memory.layoutOk`). -/

namespace Sys2Proof.Machine

@[simp] theorem Memory.read_nil (a : Nat) : Memory.read [] a = Memory.unlisted := rfl

@[simp] theorem Memory.read_cons (b : Nat) (v : Byte) (m : Memory) (a : Nat) :
    Memory.read ((b, v) :: m) a = if b = a then v else Memory.read m a := rfl

theorem Memory.read_erase (m : Memory) (a b : Nat) :
    (m.erase a).read b = if a = b then Memory.unlisted else m.read b := by
  induction m with
  | nil => simp [Memory.erase]
  | cons c m ih =>
    obtain ⟨d, v⟩ := c
    simp only [Memory.erase] at ih ⊢
    rw [List.filter_cons]
    by_cases h : d = a
    · subst h
      by_cases hb : d = b <;> simp_all
    · by_cases hb : d = b
      · have hab : a ≠ b := fun e => h (hb.trans e.symm)
        simp_all
      · simp_all

theorem Memory.read_insertAt_self (m : Memory) (a : Nat) (v : Byte) (h : ∀ c ∈ m, c.1 ≠ a) :
    (m.insertAt a v).read a = v := by
  induction m with
  | nil => simp [Memory.insertAt]
  | cons c m ih =>
    have hc : c.1 ≠ a := h c (by simp)
    have hm : ∀ d ∈ m, d.1 ≠ a := fun d hd => h d (by simp [hd])
    rw [Memory.insertAt]
    split
    · rw [Memory.read_cons, if_pos rfl]
    · obtain ⟨d, w⟩ := c
      rw [Memory.read_cons, if_neg hc, ih hm]

theorem Memory.read_insertAt_ne (m : Memory) (a b : Nat) (v : Byte) (h : a ≠ b) :
    (m.insertAt a v).read b = m.read b := by
  induction m with
  | nil => simp [Memory.insertAt, h]
  | cons c m ih =>
    rw [Memory.insertAt]
    split
    · rw [Memory.read_cons, if_neg h]
    · obtain ⟨d, w⟩ := c
      rw [Memory.read_cons, Memory.read_cons, ih]

theorem Memory.mem_erase_ne (m : Memory) (a : Nat) : ∀ c ∈ m.erase a, c.1 ≠ a := by
  intro c hc
  simpa using (List.mem_filter.1 hc).2

/-- A stored byte reads back, and every other byte reads as before. -/
theorem Memory.read_write (m : Memory) (a b : Nat) (v : Byte) :
    (m.write a v).read b = if a = b then v else m.read b := by
  rw [Memory.write]
  by_cases h : a = b
  · subst h
    split
    · simp [Memory.read_erase, *]
    · simp [Memory.read_insertAt_self _ _ _ (Memory.mem_erase_ne m a)]
  · split <;> simp [Memory.read_erase, Memory.read_insertAt_ne, h]

@[simp] theorem Memory.read_write_self (m : Memory) (a : Nat) (v : Byte) : (m.write a v).read a = v := by
  simp [Memory.read_write]

theorem Memory.read_write_ne (m : Memory) {a b : Nat} (v : Byte) (h : a ≠ b) :
    (m.write a v).read b = m.read b := by simp [Memory.read_write, h]

/-- Bytes stored in a row read back; every address outside them reads as before. -/
theorem Memory.read_writeBytes (vs : List Byte) (m : Memory) (a b : Nat) :
    (m.writeBytes a vs).read b = if a ≤ b ∧ b < a + vs.length then vs.getD (b - a) 0#8 else m.read b := by
  induction vs generalizing m a with
  | nil =>
    have : ¬ (a ≤ b ∧ b < a + ([] : List Byte).length) := by simp
    simp only [Memory.writeBytes, if_neg this]
  | cons v vs ih =>
    rw [Memory.writeBytes, ih, Memory.read_write]
    by_cases h : a = b
    · subst h; simp
    · by_cases h2 : a + 1 ≤ b ∧ b < a + 1 + vs.length
      · rw [if_pos h2, if_pos (by simp only [List.length_cons]; omega)]
        obtain ⟨k, rfl⟩ : ∃ k, b = a + 1 + k := ⟨b - (a + 1), by omega⟩
        have h1 : a + 1 + k - a = k + 1 := by omega
        have h3 : a + 1 + k - (a + 1) = k := by omega
        simp [h1, h3]
      · rw [if_neg h2, if_neg h, if_neg (by simp only [List.length_cons]; omega)]

/-! ### The canonical form -/

theorem Memory.wf_iff (m : Memory) : m.wf = true ↔
    m.Pairwise (fun c d => c.1 < d.1) ∧ ∀ c ∈ m, c.2 ≠ Memory.unlisted := by
  simp [Memory.wf]

@[simp] theorem Memory.wf_nil : Memory.wf [] = true := rfl

theorem Memory.wf_erase {m : Memory} (a : Nat) (h : m.wf = true) : (m.erase a).wf = true := by
  rw [Memory.wf_iff] at h ⊢
  exact ⟨h.1.filter _, fun c hc => h.2 c (List.mem_filter.1 hc).1⟩

theorem Memory.mem_insertAt (m : Memory) (a : Nat) (v : Byte) (c : Host.Cell) :
    c ∈ m.insertAt a v ↔ c = (a, v) ∨ c ∈ m := by
  induction m with
  | nil => simp [Memory.insertAt]
  | cons d m ih =>
    rw [Memory.insertAt]
    split
    · simp
    · simp only [List.mem_cons, ih]
      tauto

theorem Memory.wf_insertAt {m : Memory} {a : Nat} {v : Byte} (h : m.wf = true) (ha : ∀ c ∈ m, c.1 ≠ a)
    (hv : v ≠ Memory.unlisted) : (m.insertAt a v).wf = true := by
  rw [Memory.wf_iff] at h ⊢
  refine ⟨?_, fun c hc => ?_⟩
  · replace h := h.1
    induction m with
    | nil => simp [Memory.insertAt]
    | cons d m ih =>
      have hd : d.1 ≠ a := ha d (by simp)
      have hp := List.pairwise_cons.1 h
      rw [Memory.insertAt]
      split
      · next hlt =>
        refine List.pairwise_cons.2 ⟨fun c hc => ?_, h⟩
        rcases List.mem_cons.1 hc with rfl | hc
        · exact hlt
        · exact Nat.lt_trans hlt (hp.1 c hc)
      · refine List.pairwise_cons.2 ⟨fun c hc => ?_, ih (fun c hc => ha c (by simp [hc])) hp.2⟩
        rcases (Memory.mem_insertAt m a v c).1 hc with rfl | hc
        · simp only; omega
        · exact hp.1 c hc
  · rcases (Memory.mem_insertAt m a v c).1 hc with rfl | hc
    · exact hv
    · exact h.2 c hc

/-- A store keeps the canonical form. -/
theorem Memory.wf_write {m : Memory} (a : Nat) (v : Byte) (h : m.wf = true) : (m.write a v).wf = true := by
  rw [Memory.write]
  split
  · exact Memory.wf_erase a h
  · next hv => exact Memory.wf_insertAt (Memory.wf_erase a h) (Memory.mem_erase_ne m a) hv

theorem Memory.wf_writeBytes (vs : List Byte) {m : Memory} (a : Nat) (h : m.wf = true) :
    (m.writeBytes a vs).wf = true := by
  induction vs generalizing m a with
  | nil => exact h
  | cons v vs ih => exact ih (a + 1) (Memory.wf_write a v h)

/-! ### The layout -/

theorem Memory.layoutOk_iff (m : Memory) : m.layoutOk = true ↔ ∀ c ∈ m, cellOk c = true := by
  simp [Memory.layoutOk]

@[simp] theorem Memory.layoutOk_nil : Memory.layoutOk [] = true := rfl

/-- A store to a byte the block has keeps the layout. -/
theorem Memory.layoutOk_write {m : Memory} {a : Nat} {v : Byte} (h : m.layoutOk = true)
    (ha : cellOk (a, v) = true) : (m.write a v).layoutOk = true := by
  rw [Memory.layoutOk_iff] at h ⊢
  intro c hc
  rw [Memory.write] at hc
  split at hc
  · exact h c (List.mem_filter.1 hc).1
  · rcases (Memory.mem_insertAt _ a v c).1 hc with rfl | hc
    · exact ha
    · exact h c (List.mem_filter.1 hc).1

/-- Bytes stored into INBUF and CWBUF keep the layout. -/
theorem Memory.layoutOk_writeBytes (vs : List Byte) {m : Memory} {a : Nat} (h : m.layoutOk = true)
    (ha : 0x100 ≤ a) (hb : a + vs.length ≤ 0x300) : (m.writeBytes a vs).layoutOk = true := by
  induction vs generalizing m a with
  | nil => exact h
  | cons v vs ih =>
    simp only [List.length_cons] at hb
    refine ih (Memory.layoutOk_write h ?_) (by omega) (by omega)
    simp only [cellOk, isInbuf, isCwbuf, Bool.or_eq_true, Bool.and_eq_true, decide_eq_true_eq]
    omega

end Sys2Proof.Machine
end

