-- ==== Sys2Proof/Laws/Grid.lean ====
section
/-! SUPPORT. What the array and grid operations do: the cells, CWBUF and INBUF after each, and that each
keeps the canonical form and the layout. -/

namespace Sys2Proof.Machine

theorem backed_iff (r c : Nat) : backed r c = true ↔ r < 37 ∧ c < 37 := by simp [backed, gridDim]

/-- Two cells of the window's 64 columns share an address only if they are one cell. -/
theorem cellAddr_inj {r c r' c' : Nat} (hc : c < 64) (hc' : c' < 64) (h : cellAddr r c = cellAddr r' c') :
    r = r' ∧ c = c' := by
  simp only [cellAddr, gridBase] at h; omega

theorem windowRow_cellAddr (r : Nat) {c : Nat} (hc : c < 64) : windowRow (cellAddr r c) = r := by
  simp only [windowRow, cellAddr, gridBase]; omega

theorem windowCol_cellAddr (r : Nat) {c : Nat} (hc : c < 64) : windowCol (cellAddr r c) = c := by
  simp only [windowCol, cellAddr, gridBase]; omega

theorem cellByte_lt_four (d f : Bool) : (cellByte d f).toNat < 4 := by cases d <;> cases f <;> decide

@[simp] theorem cellByte_bit0 (d f : Bool) : (cellByte d f).getLsbD 0 = d := by cases d <;> cases f <;> rfl

@[simp] theorem cellByte_bit1 (d f : Bool) : (cellByte d f).getLsbD 1 = f := by cases d <;> cases f <;> rfl

/-! ### setCell -/

theorem Memory.read_setCell (m : Memory) (r c : Nat) (d f : Bool) (a : Nat) :
    (m.setCell r c d f).read a = if backed r c = true ∧ cellAddr r c = a then cellByte d f else m.read a := by
  rw [Memory.setCell]
  by_cases h : backed r c = true <;> simp [h, Memory.read_write]

/-- A cell store leaves every byte below the GRID window alone. -/
theorem Memory.read_setCell_below (m : Memory) (r c : Nat) (d f : Bool) {a : Nat} (h : a < 0x1000) :
    (m.setCell r c d f).read a = m.read a := by
  rw [Memory.read_setCell, if_neg]
  rintro ⟨-, h2⟩
  simp only [cellAddr, gridBase] at h2; omega

theorem Memory.dark_setCell (m : Memory) (r c : Nat) (d f : Bool) (r' c' : Nat) :
    (m.setCell r c d f).dark r' c' =
      if backed r c = true ∧ r = r' ∧ c = c' then d else m.dark r' c' := by
  simp only [Memory.dark, Memory.read_setCell]
  by_cases hb : backed r' c' = true
  · have hc' := ((backed_iff r' c').1 hb).2
    by_cases hr : backed r c = true
    · have hc := ((backed_iff r c).1 hr).2
      by_cases h : r = r' ∧ c = c'
      · obtain ⟨rfl, rfl⟩ := h; rw [if_pos ⟨hb, rfl⟩, if_pos ⟨hb, rfl, rfl⟩, hb, Bool.true_and]; exact cellByte_bit0 d f
      · have h2 : cellAddr r c ≠ cellAddr r' c' := fun e => h (cellAddr_inj (by omega) (by omega) e)
        simp [hr, h, h2]
    · simp [hr]
  · have h : ¬ (backed r c = true ∧ r = r' ∧ c = c') := by
      rintro ⟨h1, rfl, rfl⟩; exact hb h1
    rw [if_neg h]; simp [hb]

theorem Memory.func_setCell (m : Memory) (r c : Nat) (d f : Bool) (r' c' : Nat) :
    (m.setCell r c d f).func r' c' =
      if backed r c = true ∧ r = r' ∧ c = c' then f else m.func r' c' := by
  simp only [Memory.func, Memory.read_setCell]
  by_cases hb : backed r' c' = true
  · have hc' := ((backed_iff r' c').1 hb).2
    by_cases hr : backed r c = true
    · have hc := ((backed_iff r c).1 hr).2
      by_cases h : r = r' ∧ c = c'
      · obtain ⟨rfl, rfl⟩ := h; rw [if_pos ⟨hb, rfl⟩, if_pos ⟨hb, rfl, rfl⟩, hb, Bool.true_and]; exact cellByte_bit1 d f
      · have h2 : cellAddr r c ≠ cellAddr r' c' := fun e => h (cellAddr_inj (by omega) (by omega) e)
        simp [hr, h, h2]
    · simp [hr]
  · have h : ¬ (backed r c = true ∧ r = r' ∧ c = c') := by
      rintro ⟨h1, rfl, rfl⟩; exact hb h1
    rw [if_neg h]; simp [hb]

@[simp] theorem Memory.cwbuf_setCell (m : Memory) (r c : Nat) (d f : Bool) {i : Nat} (h : i < 0xE00) :
    (m.setCell r c d f).cwbuf i = m.cwbuf i :=
  Memory.read_setCell_below m r c d f (by simp only [cwbufBase]; omega)

@[simp] theorem Memory.inbuf_setCell (m : Memory) (r c : Nat) (d f : Bool) {i : Nat} (h : i < 0xF00) :
    (m.setCell r c d f).inbuf i = m.inbuf i :=
  Memory.read_setCell_below m r c d f (by simp only [inbufBase]; omega)

theorem Memory.wf_setCell {m : Memory} (r c : Nat) (d f : Bool) (h : m.wf = true) :
    (m.setCell r c d f).wf = true := by
  rw [Memory.setCell]; split
  · exact Memory.wf_write _ _ h
  · exact h

theorem cellOk_cell {r c : Nat} (d f : Bool) (h : backed r c = true) : cellOk (cellAddr r c, cellByte d f) = true := by
  have hb := (backed_iff r c).1 h
  have h4 := cellByte_lt_four d f
  have hg : isGrid (cellAddr r c) = true := by
    simp only [isGrid, Bool.and_eq_true, decide_eq_true_eq]
    simp only [cellAddr, gridBase]; omega
  simp [cellOk, hg, windowRow_cellAddr r (c := c) (by omega), windowCol_cellAddr r (c := c) (by omega), h, h4]

theorem Memory.layoutOk_setCell {m : Memory} (r c : Nat) (d f : Bool) (h : m.layoutOk = true) :
    (m.setCell r c d f).layoutOk = true := by
  rw [Memory.setCell]; split
  · next hb => exact Memory.layoutOk_write h (cellOk_cell d f hb)
  · exact h

/-! ### setDark -/

theorem Memory.dark_setDark (m : Memory) (r c : Nat) (d : Bool) (r' c' : Nat) :
    (m.setDark r c d).dark r' c' = if backed r c = true ∧ r = r' ∧ c = c' then d else m.dark r' c' :=
  Memory.dark_setCell m r c d (m.func r c) r' c'

@[simp] theorem Memory.func_setDark (m : Memory) (r c : Nat) (d : Bool) (r' c' : Nat) :
    (m.setDark r c d).func r' c' = m.func r' c' := by
  rw [Memory.setDark, Memory.func_setCell]
  split
  · next h => obtain ⟨-, rfl, rfl⟩ := h; rfl
  · rfl

/-! ### setFn and stampAll -/

/-- set_fn writes one cell or nothing. -/
theorem setFn_cases (m : Nat) (mem : Memory) (r c : Int) (val : Bool) :
    (∃ i j : Nat, r = i ∧ c = j ∧ i < m ∧ j < m ∧ setFn m mem r c val = mem.setCell i j val true) ∨
      setFn m mem r c val = mem := by
  rw [setFn]
  split
  · next h =>
    refine .inl ⟨r.toNat, c.toNat, ?_, ?_, ?_, ?_, rfl⟩ <;> omega
  · exact .inr rfl

/-- What every cell store keeps, a fold of cell stores keeps. -/
theorem foldl_keeps {α : Type} (P : Memory → Prop) (f : Memory → α → Memory)
    (hf : ∀ m a, P m → P (f m a)) (l : List α) {m : Memory} (h : P m) : P (l.foldl f m) := by
  induction l generalizing m with
  | nil => exact h
  | cons a l ih => exact ih (hf m a h)

/-- What every cell store keeps, set_fn keeps. -/
theorem setFn_keeps (P : Memory → Prop) (hP : ∀ m r c d f, P m → P (m.setCell r c d f)) (m : Nat) {mem : Memory}
    (r c : Int) (val : Bool) (h : P mem) : P (setFn m mem r c val) := by
  rcases setFn_cases m mem r c val with ⟨i, j, -, -, -, -, e⟩ | e <;> rw [e]
  · exact hP _ _ _ _ _ h
  · exact h

theorem stampAll_keeps (P : Memory → Prop) (hP : ∀ m r c d f, P m → P (m.setCell r c d f)) (m : Nat)
    {mem : Memory} (stamps : List Stamp) (h : P mem) : P (stampAll m mem stamps) :=
  foldl_keeps P _ (fun _ p h => setFn_keeps P hP m p.r p.c p.val h) stamps h

theorem clearGrid_keeps (P : Memory → Prop) (hP : ∀ m r c d f, P m → P (m.setCell r c d f)) {mem : Memory}
    (h : P mem) : P (clearGrid mem) :=
  foldl_keeps P _ (fun _ _ h => hP _ _ _ _ _ h) _ h

theorem timingLines_keeps (P : Memory → Prop) (hP : ∀ m r c d f, P m → P (m.setCell r c d f)) (m : Nat)
    {mem : Memory} (h : P mem) : P (timingLines m mem) := by
  refine foldl_keeps P _ (fun mem i h => ?_) _ h
  have cell : ∀ (mem : Memory) (r c : Nat), P mem → P (timingCell m mem r c i) := by
    intro mem r c h
    rw [timingCell]; split
    · exact h
    · exact setFn_keeps P hP m _ _ _ h
  exact cell _ _ _ (cell _ _ _ h)

theorem placeData_keeps (P : Memory → Prop) (hP : ∀ m r c d f, P m → P (m.setCell r c d f)) (m t : Nat)
    {mem : Memory} (h : P mem) : P (placeData m t mem) := by
  rw [placeData]
  generalize zigzag m = l
  suffices ∀ acc : Memory × Nat, P acc.1 → P (l.foldl (placeCell t) acc).1 from this _ h
  induction l with
  | nil => exact fun _ h => h
  | cons rc l ih =>
    intro acc h
    refine ih _ ?_
    rw [placeCell]
    split
    · exact h
    · split <;> exact hP _ _ _ _ _ h

theorem maskGrid_keeps (P : Memory → Prop) (hP : ∀ m r c d f, P m → P (m.setCell r c d f)) (m : Nat)
    {mem : Memory} (h : P mem) : P (maskGrid m mem) := by
  refine foldl_keeps P _ (fun mem rc h => ?_) _ h
  rw [maskCell]; split
  · exact hP _ _ _ _ _ h
  · exact h

/-- Cell stores keep every byte below the GRID window: the property to give the `_keeps` lemmas. -/
theorem keeps_below (a : Nat) (v : Byte) (h : a < 0x1000) :
    ∀ (m : Memory) r c d f, Memory.read m a = v → (m.setCell r c d f).read a = v := by
  intro m r c d f hm
  rw [Memory.read_setCell_below m r c d f h, hm]

/-! ### CWBUF -/

theorem Memory.cwbuf_setCwbuf (m : Memory) (k : Nat) (bytes : List Byte) (j : Nat) :
    (m.setCwbuf k bytes).cwbuf j =
      if k ≤ j ∧ j < k + bytes.length then bytes.getD (j - k) 0#8 else m.cwbuf j := by
  simp only [Memory.setCwbuf, Memory.cwbuf, Memory.read_writeBytes]
  have h : cwbufBase + j - (cwbufBase + k) = j - k := by omega
  rw [h]
  congr 1
  exact propext ⟨fun h => by omega, fun h => by omega⟩

/-- A store to CWBUF leaves every byte outside it alone. -/
theorem Memory.read_setCwbuf_out (m : Memory) (k : Nat) (bytes : List Byte) {a : Nat}
    (h : a < 0x200 + k ∨ 0x200 + k + bytes.length ≤ a) : (m.setCwbuf k bytes).read a = m.read a := by
  rw [Memory.setCwbuf, Memory.read_writeBytes, if_neg]
  simp only [cwbufBase]; omega

theorem rsStep_length_le (row reg : List Byte) (d : Byte) (n : Nat) (h1 : reg.length ≤ n) (h2 : 1 ≤ n) :
    (rsStep row reg d).length ≤ n := by
  have hs : (reg.drop 1 ++ [0#8]).length ≤ n := by simp; omega
  rw [rsStep]
  split
  · exact hs
  · rw [List.length_zipWith]; omega

theorem rsEncode_length_le (mode : GenMode) (n : Nat) (data : List Byte) (h : 1 ≤ n) :
    (rsEncode mode n data).length ≤ n := by
  rw [rsEncode]
  suffices ∀ reg : List Byte, reg.length ≤ n → (data.foldl (rsStep (genRow mode n)) reg).length ≤ n from
    this _ (by simp)
  induction data with
  | nil => exact fun _ h => h
  | cons d data ih => exact fun reg hr => ih _ (rsStep_length_le _ reg d n hr h)

@[simp] theorem streamBytes_length (cap : Nat) (st : List Bool) : (streamBytes cap st).length = cap / 8 := by
  simp [streamBytes]

end Sys2Proof.Machine
end

