-- ==== Sys2Proof/Laws/State.lean ====
section
/-! SUPPORT. One lemma per field per update of the state, each true by rfl, so that no proof unfolds a
record update. -/

namespace Sys2Proof.Machine

/-! ### CmdResult.complete -/

@[simp] theorem CmdResult.complete_params (x : CmdResult) : x.complete.params = x.state.params := rfl
@[simp] theorem CmdResult.complete_status (x : CmdResult) : x.complete.status = x.state.status.complete x.err := rfl
@[simp] theorem CmdResult.complete_syminfo (x : CmdResult) : x.complete.syminfo = x.state.syminfo := rfl
@[simp] theorem CmdResult.complete_len (x : CmdResult) : x.complete.len = x.state.len := rfl
@[simp] theorem CmdResult.complete_qz (x : CmdResult) : x.complete.qz = x.state.qz := rfl
@[simp] theorem CmdResult.complete_result (x : CmdResult) : x.complete.result = x.state.result := rfl
@[simp] theorem CmdResult.complete_curCmd (x : CmdResult) : x.complete.curCmd = Option.none := rfl
@[simp] theorem CmdResult.complete_mem (x : CmdResult) : x.complete.mem = x.state.mem := rfl
@[simp] theorem CmdResult.complete_events (x : CmdResult) : x.complete.events = x.state.events := rfl
@[simp] theorem CmdResult.complete_response (x : CmdResult) : x.complete.response = x.state.response := rfl
@[simp] theorem CmdResult.complete_draws (x : CmdResult) : x.complete.draws = x.state.draws := rfl

/-! ### State.setSyminfo -/

@[simp] theorem State.setSyminfo_params (s : State) (v : Nat) : (s.setSyminfo v).params = s.params := rfl
@[simp] theorem State.setSyminfo_status (s : State) (v : Nat) : (s.setSyminfo v).status = s.status := rfl
@[simp] theorem State.setSyminfo_syminfo (s : State) (v : Nat) : (s.setSyminfo v).syminfo = SymInfo.ofVersion v := rfl
@[simp] theorem State.setSyminfo_len (s : State) (v : Nat) : (s.setSyminfo v).len = s.len := rfl
@[simp] theorem State.setSyminfo_qz (s : State) (v : Nat) : (s.setSyminfo v).qz = s.qz := rfl
@[simp] theorem State.setSyminfo_result (s : State) (v : Nat) : (s.setSyminfo v).result = s.result := rfl
@[simp] theorem State.setSyminfo_curCmd (s : State) (v : Nat) : (s.setSyminfo v).curCmd = s.curCmd := rfl
@[simp] theorem State.setSyminfo_mem (s : State) (v : Nat) : (s.setSyminfo v).mem = s.mem := rfl
@[simp] theorem State.setSyminfo_events (s : State) (v : Nat) : (s.setSyminfo v).events = s.events := rfl
@[simp] theorem State.setSyminfo_response (s : State) (v : Nat) : (s.setSyminfo v).response = s.response := rfl
@[simp] theorem State.setSyminfo_draws (s : State) (v : Nat) : (s.setSyminfo v).draws = s.draws := rfl

/-! ### State.setResult -/

@[simp] theorem State.setResult_params (s : State) (v : Byte) : (s.setResult v).params = s.params := rfl
@[simp] theorem State.setResult_status (s : State) (v : Byte) : (s.setResult v).status = s.status := rfl
@[simp] theorem State.setResult_syminfo (s : State) (v : Byte) : (s.setResult v).syminfo = s.syminfo := rfl
@[simp] theorem State.setResult_len (s : State) (v : Byte) : (s.setResult v).len = s.len := rfl
@[simp] theorem State.setResult_qz (s : State) (v : Byte) : (s.setResult v).qz = s.qz := rfl
@[simp] theorem State.setResult_result (s : State) (v : Byte) : (s.setResult v).result = v := rfl
@[simp] theorem State.setResult_curCmd (s : State) (v : Byte) : (s.setResult v).curCmd = s.curCmd := rfl
@[simp] theorem State.setResult_mem (s : State) (v : Byte) : (s.setResult v).mem = s.mem := rfl
@[simp] theorem State.setResult_events (s : State) (v : Byte) : (s.setResult v).events = s.events := rfl
@[simp] theorem State.setResult_response (s : State) (v : Byte) : (s.setResult v).response = s.response := rfl
@[simp] theorem State.setResult_draws (s : State) (v : Byte) : (s.setResult v).draws = s.draws := rfl

/-! ### State.setLifecycle -/

@[simp] theorem State.setLifecycle_params (s : State) (l : Lifecycle) : (s.setLifecycle l).params = s.params := rfl
@[simp] theorem State.setLifecycle_status (s : State) (l : Lifecycle) : (s.setLifecycle l).status = { s.status with state := l } := rfl
@[simp] theorem State.setLifecycle_syminfo (s : State) (l : Lifecycle) : (s.setLifecycle l).syminfo = s.syminfo := rfl
@[simp] theorem State.setLifecycle_len (s : State) (l : Lifecycle) : (s.setLifecycle l).len = s.len := rfl
@[simp] theorem State.setLifecycle_qz (s : State) (l : Lifecycle) : (s.setLifecycle l).qz = s.qz := rfl
@[simp] theorem State.setLifecycle_result (s : State) (l : Lifecycle) : (s.setLifecycle l).result = s.result := rfl
@[simp] theorem State.setLifecycle_curCmd (s : State) (l : Lifecycle) : (s.setLifecycle l).curCmd = s.curCmd := rfl
@[simp] theorem State.setLifecycle_mem (s : State) (l : Lifecycle) : (s.setLifecycle l).mem = s.mem := rfl
@[simp] theorem State.setLifecycle_events (s : State) (l : Lifecycle) : (s.setLifecycle l).events = s.events := rfl
@[simp] theorem State.setLifecycle_response (s : State) (l : Lifecycle) : (s.setLifecycle l).response = s.response := rfl
@[simp] theorem State.setLifecycle_draws (s : State) (l : Lifecycle) : (s.setLifecycle l).draws = s.draws := rfl

/-! ### State.accept -/

@[simp] theorem State.accept_params (s : State) (w : Word) : (s.accept w).params = s.params := rfl
@[simp] theorem State.accept_status (s : State) (w : Word) : (s.accept w).status = { s.status with state := .generating } := rfl
@[simp] theorem State.accept_syminfo (s : State) (w : Word) : (s.accept w).syminfo = s.syminfo := rfl
@[simp] theorem State.accept_len (s : State) (w : Word) : (s.accept w).len = s.len := rfl
@[simp] theorem State.accept_qz (s : State) (w : Word) : (s.accept w).qz = s.qz := rfl
@[simp] theorem State.accept_result (s : State) (w : Word) : (s.accept w).result = s.result := rfl
@[simp] theorem State.accept_curCmd (s : State) (w : Word) : (s.accept w).curCmd = some w := rfl
@[simp] theorem State.accept_mem (s : State) (w : Word) : (s.accept w).mem = s.mem := rfl
@[simp] theorem State.accept_events (s : State) (w : Word) : (s.accept w).events = s.events := rfl
@[simp] theorem State.accept_response (s : State) (w : Word) : (s.accept w).response = s.response := rfl
@[simp] theorem State.accept_draws (s : State) (w : Word) : (s.accept w).draws = s.draws := rfl

/-! ### State.respond -/

@[simp] theorem State.respond_params (s : State) (e : Bool) (d : Word) : (s.respond e d).params = s.params := rfl
@[simp] theorem State.respond_status (s : State) (e : Bool) (d : Word) : (s.respond e d).status = s.status := rfl
@[simp] theorem State.respond_syminfo (s : State) (e : Bool) (d : Word) : (s.respond e d).syminfo = s.syminfo := rfl
@[simp] theorem State.respond_len (s : State) (e : Bool) (d : Word) : (s.respond e d).len = s.len := rfl
@[simp] theorem State.respond_qz (s : State) (e : Bool) (d : Word) : (s.respond e d).qz = s.qz := rfl
@[simp] theorem State.respond_result (s : State) (e : Bool) (d : Word) : (s.respond e d).result = s.result := rfl
@[simp] theorem State.respond_curCmd (s : State) (e : Bool) (d : Word) : (s.respond e d).curCmd = s.curCmd := rfl
@[simp] theorem State.respond_mem (s : State) (e : Bool) (d : Word) : (s.respond e d).mem = s.mem := rfl
@[simp] theorem State.respond_events (s : State) (e : Bool) (d : Word) : (s.respond e d).events = s.events := rfl
@[simp] theorem State.respond_response (s : State) (e : Bool) (d : Word) : (s.respond e d).response = some { error := e, data := d } := rfl
@[simp] theorem State.respond_draws (s : State) (e : Bool) (d : Word) : (s.respond e d).draws = s.draws := rfl

/-! ### State.popEvent -/

@[simp] theorem State.popEvent_params (s : State) : s.popEvent.params = s.params := rfl
@[simp] theorem State.popEvent_status (s : State) : s.popEvent.status = s.status := rfl
@[simp] theorem State.popEvent_syminfo (s : State) : s.popEvent.syminfo = s.syminfo := rfl
@[simp] theorem State.popEvent_len (s : State) : s.popEvent.len = s.len := rfl
@[simp] theorem State.popEvent_qz (s : State) : s.popEvent.qz = s.qz := rfl
@[simp] theorem State.popEvent_result (s : State) : s.popEvent.result = s.result := rfl
@[simp] theorem State.popEvent_curCmd (s : State) : s.popEvent.curCmd = s.curCmd := rfl
@[simp] theorem State.popEvent_mem (s : State) : s.popEvent.mem = s.mem := rfl
@[simp] theorem State.popEvent_events (s : State) : s.popEvent.events = s.events.tail := rfl
@[simp] theorem State.popEvent_response (s : State) : s.popEvent.response = s.response := rfl
@[simp] theorem State.popEvent_draws (s : State) : s.popEvent.draws = s.draws := rfl

/-! ### writeStream -/

@[simp] theorem writeStream_params (s : State) (v : Nat) : (writeStream s v).params = s.params := rfl
@[simp] theorem writeStream_status (s : State) (v : Nat) : (writeStream s v).status = s.status := rfl
@[simp] theorem writeStream_syminfo (s : State) (v : Nat) : (writeStream s v).syminfo = s.syminfo := rfl
@[simp] theorem writeStream_len (s : State) (v : Nat) : (writeStream s v).len = s.len := rfl
@[simp] theorem writeStream_qz (s : State) (v : Nat) : (writeStream s v).qz = s.qz := rfl
@[simp] theorem writeStream_result (s : State) (v : Nat) : (writeStream s v).result = s.result := rfl
@[simp] theorem writeStream_curCmd (s : State) (v : Nat) : (writeStream s v).curCmd = s.curCmd := rfl
@[simp] theorem writeStream_mem (s : State) (v : Nat) : (writeStream s v).mem = s.mem.setCwbuf 0 (streamBytes (VT v).capBits (bitStream (VT v).capBits s.len.toNat s.payload)) := rfl
@[simp] theorem writeStream_events (s : State) (v : Nat) : (writeStream s v).events = s.events := rfl
@[simp] theorem writeStream_response (s : State) (v : Nat) : (writeStream s v).response = s.response := rfl
@[simp] theorem writeStream_draws (s : State) (v : Nat) : (writeStream s v).draws = s.draws := rfl

/-! ### softresetState -/

@[simp] theorem softresetState_params (s : State) : (softresetState s).params = s.params := rfl
@[simp] theorem softresetState_status (s : State) : (softresetState s).status = { state := .idle, ovr := false, lasterr := false, err := none } := rfl
@[simp] theorem softresetState_syminfo (s : State) : (softresetState s).syminfo = SymInfo.none := rfl
@[simp] theorem softresetState_len (s : State) : (softresetState s).len = 0#8 := rfl
@[simp] theorem softresetState_qz (s : State) : (softresetState s).qz = 4#8 := rfl
@[simp] theorem softresetState_result (s : State) : (softresetState s).result = 0#8 := rfl
@[simp] theorem softresetState_curCmd (s : State) : (softresetState s).curCmd = Option.none := rfl
@[simp] theorem softresetState_mem (s : State) : (softresetState s).mem = clearGrid s.mem := by
  simp only [softresetState]
@[simp] theorem softresetState_events (s : State) : (softresetState s).events = s.events := rfl
@[simp] theorem softresetState_response (s : State) : (softresetState s).response = s.response := rfl
@[simp] theorem softresetState_draws (s : State) : (softresetState s).draws = s.draws := rfl

/-! ### resetEvent -/

@[simp] theorem resetEvent_params (ib cb : Vector Byte 256) (s : State) : (resetEvent ib cb s).params = s.params := rfl
@[simp] theorem resetEvent_status (ib cb : Vector Byte 256) (s : State) : (resetEvent ib cb s).status = Status.reset := rfl
@[simp] theorem resetEvent_syminfo (ib cb : Vector Byte 256) (s : State) : (resetEvent ib cb s).syminfo = SymInfo.none := rfl
@[simp] theorem resetEvent_len (ib cb : Vector Byte 256) (s : State) : (resetEvent ib cb s).len = 0#8 := rfl
@[simp] theorem resetEvent_qz (ib cb : Vector Byte 256) (s : State) : (resetEvent ib cb s).qz = 4#8 := rfl
@[simp] theorem resetEvent_result (ib cb : Vector Byte 256) (s : State) : (resetEvent ib cb s).result = 0#8 := rfl
@[simp] theorem resetEvent_curCmd (ib cb : Vector Byte 256) (s : State) : (resetEvent ib cb s).curCmd = Option.none := rfl
@[simp] theorem resetEvent_mem (ib cb : Vector Byte 256) (s : State) : (resetEvent ib cb s).mem = resetMemory ib cb := rfl
@[simp] theorem resetEvent_events (ib cb : Vector Byte 256) (s : State) : (resetEvent ib cb s).events = s.events := rfl
@[simp] theorem resetEvent_response (ib cb : Vector Byte 256) (s : State) : (resetEvent ib cb s).response = Option.none := rfl
@[simp] theorem resetEvent_draws (ib cb : Vector Byte 256) (s : State) : (resetEvent ib cb s).draws = s.draws := rfl

/-! ### Status.complete -/

@[simp] theorem Status.complete_none (t : Status) :
    t.complete none = { t with lasterr := false, state := .ready } := rfl

@[simp] theorem Status.complete_some (t : Status) (e : Err) :
    t.complete (some e) = { t with lasterr := true, err := some (t.err.getD e), state := .ready } := rfl

@[simp] theorem Status.complete_state (t : Status) (e : Option Err) : (t.complete e).state = .ready := by
  cases e <;> rfl

@[simp] theorem Status.complete_ovr (t : Status) (e : Option Err) : (t.complete e).ovr = t.ovr := by
  cases e <;> rfl

/-! ### How a pseudocode ends -/

@[simp] theorem done_state (s : State) : (done s).state = s := rfl
@[simp] theorem done_err (s : State) : (done s).err = none := rfl
@[simp] theorem raise_state (e : Err) (s : State) : (raise e s).state = s := rfl
@[simp] theorem raise_err (e : Err) (s : State) : (raise e s).err = some e := rfl
@[simp] theorem done_andThen (s : State) (f : State → CmdResult) : (done s).andThen f = f s := rfl
@[simp] theorem raise_andThen (e : Err) (s : State) (f : State → CmdResult) :
    (raise e s).andThen f = raise e s := rfl

theorem needVersion_of_ne {s : State} (h : s.syminfo.version ≠ 0#8) (rest : CmdResult) :
    needVersion s rest = rest := by simp [needVersion, h]

theorem needVersion_of_eq {s : State} (h : s.syminfo.version = 0#8) (rest : CmdResult) :
    needVersion s rest = raise .badVersion s := by simp [needVersion, h]

/-- What a command answers when it completes by R282. -/
@[simp] theorem completes_eq (r : CmdResult) : completes r = .next r.complete := rfl

/-- need_version() either raises and leaves the state, or goes on (R284). -/
theorem needVersion_cases (s : State) (rest : CmdResult) :
    (s.syminfo.version = 0#8 ∧ needVersion s rest = raise .badVersion s) ∨
      (s.syminfo.version ≠ 0#8 ∧ needVersion s rest = rest) := by
  by_cases h : s.syminfo.version = 0#8
  · exact .inl ⟨h, needVersion_of_eq h rest⟩
  · exact .inr ⟨h, needVersion_of_ne h rest⟩

end Sys2Proof.Machine
end

