-- ==== Sys2Proof/Laws/Bus.lean ====
section
/-! SUPPORT. What one host access, one core turn and one step can do, said once (20_memory.md R62-R70,
47_sequencer.md R281); later proofs take these cases apart instead of unfolding the definitions. -/

namespace Sys2Proof.Machine

/-- A write is dropped with OVR set while GENERATING, and otherwise has its effect (R66, R67). -/
theorem State.write_cases (s t : State) :
    (s.status.state = .generating ∧
      s.write t = { s with response := some ⟨false, 0#32⟩, status := { s.status with ovr := true } }) ∨
    (s.status.state ≠ .generating ∧ s.write t = t.respond false 0#32) := by
  by_cases h : s.status.state = .generating
  · exact .inl ⟨h, by simp [State.write, h, State.respond]⟩
  · exact .inr ⟨h, by simp [State.write, h]⟩

/-- A read changes nothing but the bus's answer and, when it draws a free value, their count (R66, R68). -/
theorem State.read_cases (s : State) (st : Bool) (exact mask : Word) :
    (s.status.state = .generating ∧ st = false ∧ s.read st exact mask =
      { s with response := some ⟨false, Config.freeRead s.draws &&& mask⟩, draws := s.draws + 1 }) ∨
    ((s.status.state ≠ .generating ∨ st = true) ∧ s.read st exact mask = s.respond false exact) := by
  by_cases h : s.status.state = .generating ∧ st = false
  · exact .inl ⟨h.1, h.2, by simp [State.read, h.1, h.2, State.respond]⟩
  · refine .inr ⟨?_, if_neg h⟩
    by_cases h1 : s.status.state = .generating
    · exact .inr (by simpa [h1] using h)
    · exact .inl h1

/-- Every way one host access can go. -/
theorem hostAccess_cases (a : Access) (s : State) :
    (a.busError = true ∧ hostAccess a s = s.respond true 0#32) ∨
    (a.busError = false ∧
      ((∃ off, a = .rd8 off ∧
          hostAccess a s = s.read false ((s.mem.arrayByte off.toNat).setWidth 32) 0xFF#32) ∨
       (∃ off, a = .rd32 off ∧
          hostAccess a s = s.read (off.toNat == 0x04) (s.readWord off.toNat) 0xFFFFFFFF#32) ∨
       (∃ off v, a = .wr8 off v ∧ hostAccess a s = s.write (s.writeByte off.toNat v)) ∨
       (∃ off v, a = .wr32 off v ∧ hostAccess a s = s.write (s.writeWord off.toNat v)))) := by
  by_cases h : a.busError = true
  · exact .inl ⟨h, by simp [hostAccess, h]⟩
  · refine .inr ⟨by simpa using h, ?_⟩
    cases a with
    | rd8 off => exact .inl ⟨off, rfl, by simp [hostAccess, h]⟩
    | rd32 off => exact .inr (.inl ⟨off, rfl, by simp [hostAccess, h]⟩)
    | wr8 off v => exact .inr (.inr (.inl ⟨off, v, rfl, by simp [hostAccess, h]⟩))
    | wr32 off v => exact .inr (.inr (.inr ⟨off, v, rfl, by simp [hostAccess, h]⟩))

/-- Every way the core's turn can go (R281). -/
theorem coreTurn_cases (s : State) :
    (s.status.state ≠ .generating ∧ coreTurn s = .next s) ∨
    (s.status.state = .generating ∧ s.curCmd = none ∧ coreTurn s = .fault .noCommandLatched) ∨
    (∃ w e, s.status.state = .generating ∧ s.curCmd = some w ∧ decode w = .error e ∧
      coreTurn s = .next (raise .illegalCmd s).complete) ∨
    (∃ w i, s.status.state = .generating ∧ s.curCmd = some w ∧ decode w = .ok i ∧ coreTurn s = exec i s) := by
  by_cases h : s.status.state = .generating
  · refine .inr ?_
    cases hc : s.curCmd with
    | none => exact .inl ⟨h, rfl, by simp [coreTurn, h, hc]⟩
    | some w =>
      refine .inr ?_
      cases hd : decode w with
      | error e => exact .inl ⟨w, e, h, rfl, hd, by simp [coreTurn, h, hc, completeWord, hd]⟩
      | ok i => exact .inr ⟨w, i, h, rfl, hd, by simp [coreTurn, h, hc, completeWord, hd]⟩
  · exact .inl ⟨h, by simp [coreTurn, h]⟩

/-- Every way a step can go (20_memory.md R71). -/
theorem step_cases (s : State) :
    (s.events = [] ∧ step s = coreTurn s) ∨
    (∃ es, s.events = .core :: es ∧ step s = coreTurn { s with events := es }) ∨
    (∃ a es, s.events = .host a :: es ∧ step s = .next (hostAccess a { s with events := es })) ∨
    (∃ ib cb es, s.events = .reset ib cb :: es ∧ step s = .next (resetEvent ib cb { s with events := es })) := by
  cases h : s.events with
  | nil => exact .inl ⟨rfl, by simp [step, h]⟩
  | cons e es =>
    have hp : s.popEvent = { s with events := es } := by simp [State.popEvent, h]
    refine .inr ?_
    cases e with
    | core => exact .inl ⟨es, rfl, by simp only [step, h, hp]⟩
    | host a => exact .inr (.inl ⟨a, es, rfl, by simp only [step, h, hp]⟩)
    | reset ib cb => exact .inr (.inr ⟨ib, cb, es, rfl, by simp only [step, h, hp]⟩)

end Sys2Proof.Machine
end

