-- ==== Sys2Proof/Laws/Generate.lean ====
section
/-! SUPPORT. What each stage body answers once a version is set, and GENERATE's three ways to end
(47_sequencer.md R288), each said once: the empty input, DATA_TOO_LARGE, and the whole pipeline as one
chain of memory operations. -/

namespace Sys2Proof.Machine

/-! ### The stage bodies with a version -/

section
variable {s : State} (h : s.syminfo.version ≠ 0#8)
include h

theorem finderBody_ok : finderBody s = done { s with
    mem := stampAll s.side s.mem ((finderCentres s.side).flatMap (finderStamps s.params.separators)) } :=
  needVersion_of_ne h _

theorem timingBody_ok : timingBody s = done { s with mem := timingLines s.side s.mem } :=
  needVersion_of_ne h _

theorem alignBody_ok : alignBody s = done { s with mem := stampAll s.side s.mem (alignStamps s.side) } :=
  needVersion_of_ne h _

theorem rsvfmtBody_ok :
    rsvfmtBody s = done { s with mem := stampAll s.side s.mem (fmtStamps s.side 0#15 false) } :=
  needVersion_of_ne h _

theorem formatBody_ok :
    formatBody s = done { s with mem := stampAll s.side s.mem (fmtStamps s.side formatWord true) } :=
  needVersion_of_ne h _

theorem placeBody_ok : placeBody s = done { s with mem := placeData s.side s.totalCw s.mem } :=
  needVersion_of_ne h _

theorem maskBody_ok : maskBody s = done { s with mem := maskGrid s.side s.mem } :=
  needVersion_of_ne h _

theorem bitstreamBody_ok (ht : tooLarge s s.syminfo.version.toNat = false) :
    bitstreamBody s = done (writeStream s s.syminfo.version.toNat) := by
  rw [bitstreamBody, needVersion_of_ne h, ht]; rfl

theorem bitstreamBody_tooLarge (ht : tooLarge s s.syminfo.version.toNat = true) :
    bitstreamBody s = raise .dataTooLarge s := by
  rw [bitstreamBody, needVersion_of_ne h, ht]; rfl

end

theorem rsencBody_ok {n k : Nat} (s : State) (h1 : 1 ≤ n) (h2 : n ≤ 26) (h3 : k + n ≤ 256) :
    rsencBody n k s =
      done { s with mem := s.mem.setCwbuf k (rsEncode s.params.genMode n ((List.range k).map s.mem.cwbuf)) } := by
  rw [rsencBody, if_neg (by omega), if_neg (by omega)]

/-! ### The pipeline -/

/-- The memory GENERATE's stages leave (R288), from a state whose SYMINFO holds version v: stage by stage. -/
def stagesMemory (v : Nat) (s : State) : Memory :=
  let m := s.side
  let finders := stampAll m s.mem ((finderCentres m).flatMap (finderStamps s.params.separators))
  let reserved := stampAll m (stampAll m (timingLines m finders) (alignStamps m)) (fmtStamps m 0#15 false)
  let cap := (VT v).capBits
  let data := reserved.setCwbuf 0
    (streamBytes cap (bitStream cap s.len.toNat ((List.range s.len.toNat).map reserved.inbuf)))
  let coded := data.setCwbuf (VT v).dcw
    (rsEncode s.params.genMode (VT v).ecc ((List.range (VT v).dcw).map data.cwbuf))
  maskGrid m (stampAll m (placeData m s.totalCw coded) (fmtStamps m formatWord true))

/-- With a supported version that the input does not overflow, no stage raises, and the stages write
memory only. -/
theorem generateStages_ok {v : Nat} {s : State} (h : s.syminfo.version ≠ 0#8)
    (hv : s.syminfo.version.toNat = v) (ht : tooLarge s v = false) (h1 : 1 ≤ (VT v).ecc)
    (h2 : (VT v).ecc ≤ 26) (h3 : (VT v).dcw + (VT v).ecc ≤ 256) :
    generateStages v s = done { s with mem := stagesMemory v s } := by
  subst hv
  have hf : finderBody s = _ := finderBody_ok h
  have ht' : ∀ mem, timingBody { s with mem := mem } = _ := fun mem => timingBody_ok (s := { s with mem := mem }) h
  have ha : ∀ mem, alignBody { s with mem := mem } = _ := fun mem => alignBody_ok (s := { s with mem := mem }) h
  have hr : ∀ mem, rsvfmtBody { s with mem := mem } = _ := fun mem => rsvfmtBody_ok (s := { s with mem := mem }) h
  have hb : ∀ mem, bitstreamBody { s with mem := mem } = _ :=
    fun mem => bitstreamBody_ok (s := { s with mem := mem }) h ht
  have he : ∀ mem, rsencBody (VT s.syminfo.version.toNat).ecc (VT s.syminfo.version.toNat).dcw
      { s with mem := mem } = _ := fun mem => rsencBody_ok { s with mem := mem } h1 h2 h3
  have hp : ∀ mem, placeBody { s with mem := mem } = _ := fun mem => placeBody_ok (s := { s with mem := mem }) h
  have ho : ∀ mem, formatBody { s with mem := mem } = _ := fun mem => formatBody_ok (s := { s with mem := mem }) h
  have hm : ∀ mem, maskBody { s with mem := mem } = _ := fun mem => maskBody_ok (s := { s with mem := mem }) h
  simp only [generateStages, hf, ht', ha, hr, hb, he, hp, ho, hm, done_andThen, writeStream]
  rfl

/-- The oversize check reads LEN and the policy only. -/
theorem tooLarge_withMem (s : State) (mem : Memory) (v : Nat) :
    tooLarge { s with mem := mem } v = tooLarge s v := rfl

/-- The oversize check reads LEN and the policy only. -/
theorem tooLarge_withSymbol (s : State) (y : SymInfo) (mem : Memory) (v : Nat) :
    tooLarge { s with syminfo := y, mem := mem } v = tooLarge s v := rfl

/-- Empty input (R288): the grid and SYMINFO are cleared. -/
theorem generateBody_empty {s : State} (h : s.len.toNat = 0) :
    generateBody s = done { s with syminfo := SymInfo.ofVersion 0, mem := clearGrid s.mem } := by
  rw [generateBody, cleargridBody, done_andThen]
  simp only [h, if_true, State.setSyminfo]

/-- Oversized input under ERROR (R288): the grid and SYMINFO are cleared, then DATA_TOO_LARGE. -/
theorem generateBody_tooLarge {s : State} (h : s.len.toNat ≠ 0)
    (ht : tooLarge s (selectVersion s.len.toNat) = true) :
    generateBody s =
      raise .dataTooLarge { s with syminfo := SymInfo.ofVersion 0, mem := clearGrid s.mem } := by
  rw [generateBody, cleargridBody, done_andThen]
  simp only [h, if_false]
  rw [if_pos (by rw [tooLarge_withMem, ht])]
  simp only [State.setSyminfo]

/-- What the version table gives for a nonempty input (R120, R121). -/
theorem selectVersion_facts {n : Nat} (h : n ≠ 0) :
    SymInfo.ofVersion (selectVersion n) ≠ SymInfo.none ∧
    (SymInfo.ofVersion (selectVersion n)).version ≠ 0#8 ∧
    (SymInfo.ofVersion (selectVersion n)).version.toNat = selectVersion n ∧
    1 ≤ (VT (selectVersion n)).ecc ∧ (VT (selectVersion n)).ecc ≤ 26 ∧
    (VT (selectVersion n)).dcw + (VT (selectVersion n)).ecc ≤ 256 := by
  rw [selectVersion, if_neg h]
  split_ifs <;> decide

/-- A nonempty input that fits, or any nonempty input under TRUNCATE (R288): no error, the selected
version, and the pipeline's memory on a cleared grid. -/
theorem generateBody_ok {s : State} (h : s.len.toNat ≠ 0)
    (ht : tooLarge s (selectVersion s.len.toNat) = false) :
    generateBody s =
      (let t := { s with syminfo := SymInfo.ofVersion (selectVersion s.len.toNat), mem := clearGrid s.mem }
       done { t with mem := stagesMemory (selectVersion s.len.toNat) t }) := by
  obtain ⟨-, hv, hn, h1, h2, h3⟩ := selectVersion_facts h
  rw [generateBody, cleargridBody, done_andThen]
  simp only [h, if_false]
  rw [if_neg (by rw [tooLarge_withMem, ht]; decide)]
  generalize clearGrid s.mem = g
  exact generateStages_ok (s := { s with syminfo := SymInfo.ofVersion (selectVersion s.len.toNat), mem := g })
    hv hn (by rw [tooLarge_withSymbol, ht]) h1 h2 h3

end Sys2Proof.Machine
end

