-- ==== Sys2Proof/Machine/HostProgram.lean ====
section
/-! DEFINITION. The host-program syntax (30_encoding.md R98) and its pseudo-instructions (R99), and how a
program runs. A line stands for bus operations; a line that is an assembly error stands for nothing
(`none`). The host takes one operation a turn, in program order (00_scope.md R4), and POLL looks at the
value it reads. Where the core's turns and the reset events fall among the host's is open (20_memory.md
R71), and so is whether an access in progress at a reset is completed before it or dropped
(70_reset_and_hazards.md R340): the list of turns is an argument, so every placement and both fates are
some list (log entries 19 and 20). -/

namespace Sys2Proof.Machine

/-- One line of a host program (R98, R99), its numbers as numbers (log entry 13). -/
inductive Line where
  | wr32 (off val : Nat)
  | wr8  (off val : Nat)
  | rd32 (off : Nat)
  | rd8  (off : Nat)
  | cmd  (c : AsmCmd)
  | poll
  | run  (c : AsmCmd)
  | loadText (bytes : List Byte)
  | check (off val : Nat)
  deriving DecidableEq, Repr

/-- What the host does at a turn. -/
inductive HostOp where
  /-- one bus access -/
  | access (a : Access)
  /-- POLL (R99): RD32 0x004, again while the value read shows GENERATING -/
  | poll
  /-- CHECK (R99): RD32 off, and the claim that the value read is `val` -/
  | check (off : Offset) (val : Word)
  deriving DecidableEq, Repr

/-! ### From lines to operations -/

/-- A byte offset of the 13-bit space (20_memory.md R60). -/
def offsetOf (off : Nat) : Option Offset := if off < 0x2000 then some (BitVec.ofNat 13 off) else none

/-- A value of a 32-bit access (20_memory.md R62). -/
def wordOf (val : Nat) : Option Word := if val < 2 ^ 32 then some (BitVec.ofNat 32 val) else none

/-- A value of an 8-bit access (20_memory.md R62). -/
def byteOf (val : Nat) : Option Byte := if val < 2 ^ 8 then some (BitVec.ofNat 8 val) else none

/-- CMD MNEMONIC ...: WR32 0x000, word (R98). -/
def cmdOp (c : AsmCmd) : Option HostOp := c.assemble.map (fun i => .access (.wr32 0#13 (encode i)))

/-- The byte writes of LOADTEXT, from INBUF[i] on (R99). -/
def textOps : Nat → List Byte → List HostOp
  | _, [] => []
  | i, b :: bs => .access (.wr8 (BitVec.ofNat 13 (inbufBase + i)) b) :: textOps (i + 1) bs

/-- LOADTEXT (R99): the bytes, then LEN; at most 255 of them. -/
def loadTextOps (bytes : List Byte) : Option (List HostOp) :=
  if bytes.length ≤ 255 then
    some (textOps 0 bytes ++ [.access (.wr32 0x00C#13 (BitVec.ofNat 32 bytes.length))])
  else none

/-- The operations one line stands for (R98, R99); none for an assembly error. -/
def Line.ops : Line → Option (List HostOp)
  | .wr32 off val => (offsetOf off).bind fun o => (wordOf val).map fun v => [.access (.wr32 o v)]
  | .wr8 off val => (offsetOf off).bind fun o => (byteOf val).map fun v => [.access (.wr8 o v)]
  | .rd32 off => (offsetOf off).map fun o => [.access (.rd32 o)]
  | .rd8 off => (offsetOf off).map fun o => [.access (.rd8 o)]
  | .cmd c => (cmdOp c).map fun p => [p]
  | .poll => some [.poll]
  | .run c => (cmdOp c).map fun p => [p, .poll]
  | .loadText bytes => loadTextOps bytes
  | .check off val => (offsetOf off).bind fun o => (wordOf val).map fun v => [.check o v]

/-- The operations of a whole program, in order; none if a line is an assembly error. -/
def programOps : List Line → Option (List HostOp)
  | [] => some []
  | l :: ls => l.ops.bind fun ps => (programOps ls).map fun qs => ps ++ qs

/-! ### Running a program -/

/-- Whose turn it is in the total order (20_memory.md R71; 70_reset_and_hazards.md R340). -/
inductive Turn where
  | host
  | core
  /-- a reset with no access in progress: the host's last access was completed before it (R340) -/
  | reset (inbuf cwbuf : Vector Byte 256)
  /-- a reset that drops the access in progress, the host's next one (R340) -/
  | resetDropping (inbuf cwbuf : Vector Byte 256)
  deriving DecidableEq, Repr

/-- A host program being run: the machine, the operations still to do, and what the CHECKs done so far
found, in order. -/
structure Session where
  state  : State
  todo   : List HostOp
  checks : List Bool
  deriving DecidableEq, Repr

/-- The access an operation makes. -/
def HostOp.toAccess : HostOp → Access
  | .access a => a
  | .poll => .rd32 0x004#13
  | .check off _ => .rd32 off

/-- The host does the operation again at its next turn: POLL, while the value read has bits [1:0] = 1 (R99). -/
def HostOp.again (p : HostOp) (read : Word) : Bool :=
  match p with
  | .access _ => false
  | .poll => read.extractLsb' 0 2 == 1#2
  | .check _ _ => false

/-- What a CHECK finds: whether the value read is the value it states (R99). -/
def HostOp.found (p : HostOp) (read : Word) : List Bool :=
  match p with
  | .access _ => []
  | .poll => []
  | .check _ val => [read == val]

/-- What is left of an operation whose access a reset dropped: POLL has read no value that ends it, so it
goes on; any other operation is not made again (log entry 20). -/
def HostOp.dropped (p : HostOp) : List HostOp :=
  match p with
  | .access _ => []
  | .poll => [.poll]
  | .check _ _ => []

/-- What a CHECK whose access a reset dropped finds: not the value it states, for it read none (log entry 20). -/
def HostOp.foundDropped (p : HostOp) : List Bool :=
  match p with
  | .access _ => []
  | .poll => []
  | .check _ _ => [false]

/-- The data of the bus's latest answer. -/
def State.dataRead (s : State) : Word :=
  match s.response with
  | some r => r.data
  | none => 0#32

/-- The event of a turn; none when the host has nothing left to do. -/
def Session.event (h : Session) : Turn → Option Event
  | .host => h.todo.head?.map fun p => .host p.toAccess
  | .core => some .core
  | .reset inbuf cwbuf => some (.reset inbuf cwbuf)
  | .resetDropping inbuf cwbuf => some (.reset inbuf cwbuf)

/-- The session after a turn whose event left the machine in `t`. A dropped access is no event: it reaches
neither the machine nor the bus's answer (70_reset_and_hazards.md R340; log entry 20). -/
def Session.after (h : Session) (turn : Turn) (t : State) : Session :=
  match turn, h.todo with
  | .host, p :: ps =>
    { state := t
      todo := if p.again t.dataRead then p :: ps else ps
      checks := h.checks ++ p.found t.dataRead }
  | .resetDropping _ _, p :: ps =>
    { state := t
      todo := p.dropped ++ ps
      checks := h.checks ++ p.foundDropped }
  | _, _ => { h with state := t }

/-- One turn: one step of the machine on the turn's event. -/
def Session.turn (h : Session) (turn : Turn) : Host.Outcome Session Fault Refusal :=
  match h.event turn with
  | none => .next h
  | some e =>
    match step { h.state with events := [e] } with
    | .next t => .next (h.after turn t)
    | .fault r => .fault r
    | .refused r => .refused r

/-- A program run through a list of turns. -/
def Session.run : List Turn → Session → Host.Outcome Session Fault Refusal
  | [], h => .next h
  | turn :: turns, h =>
    match h.turn turn with
    | .next h' => Session.run turns h'
    | .fault r => .fault r
    | .refused r => .refused r

/-- The events a run puts into the total order: a program's expansion (R98, R99) under a list of turns. -/
def Session.events : List Turn → Session → List Event
  | [], _ => []
  | turn :: turns, h =>
    match h.turn turn with
    | .next h' => (h.event turn).toList ++ Session.events turns h'
    | .fault _ => (h.event turn).toList
    | .refused _ => (h.event turn).toList

/-- A program about to run on a machine; none if it has an assembly error. -/
def startProgram (ls : List Line) (s : State) : Option Session :=
  (programOps ls).map fun ps => { state := s, todo := ps, checks := [] }

end Sys2Proof.Machine
end

