-- ==== Sys2Proof/Laws/HostProgram.lean ====
section
/-! SUPPORT. What a host program's turns do: POLL is done exactly when the value read does not show
GENERATING, and a program's run through a list of turns is the machine's own run over the events it makes,
because no step looks at the events that come after its own (20_memory.md R71). -/

namespace Sys2Proof.Machine

/-! ### POLL -/

/-- STATUS bits [1:0] read 1 exactly while GENERATING (10_state.md R22, R23). -/
theorem Status.word_state (t : Status) : t.word.extractLsb' 0 2 = 1#2 ↔ t.state = .generating := by
  rcases t with ⟨st, ovr, lasterr, err⟩
  cases st <;> cases ovr <;> cases lasterr <;> rcases err with _ | e <;> (try cases e) <;> decide

/-- Reading STATUS answers its word, GENERATING or not, and changes nothing (20_memory.md R66, R68). -/
theorem hostAccess_status (s : State) :
    hostAccess (.rd32 0x004#13) s = s.respond false s.status.word := by
  simp [hostAccess, Access.busError, isReserved, isRegister, State.read, State.readWord, State.registerWord]

/-- A turn of POLL reads STATUS, and is the last exactly when STATE is not GENERATING (30_encoding.md R99). -/
theorem Session.poll_turn (s : State) (ps : List HostOp) (checks : List Bool) :
    Session.turn ⟨s, .poll :: ps, checks⟩ .host =
      .next ⟨{ s with events := [], response := some ⟨false, s.status.word⟩ },
        if s.status.state = .generating then .poll :: ps else ps, checks⟩ := by
  have h : step { s with events := [.host (.rd32 0x004#13)] } =
      .next { s with events := [], response := some ⟨false, s.status.word⟩ } := by
    simp [step, State.popEvent, hostAccess_status, State.respond]
  simp only [Session.turn, Session.event, List.head?_cons, Option.map_some, HostOp.toAccess, h, Session.after,
    HostOp.again, HostOp.found, State.dataRead, beq_iff_eq, Status.word_state, List.append_nil]

/-! ### Resets -/

/-- A reset leaves the operations to do as they are, or, when it drops the access in progress, as
`HostOp.dropped` says; the machine does the same reset either way (70_reset_and_hazards.md R340). -/
theorem Session.reset_turns (s : State) (p : HostOp) (ps : List HostOp) (checks : List Bool)
    (ib cb : Vector Byte 256) :
    Session.turn ⟨s, p :: ps, checks⟩ (.reset ib cb) =
      .next ⟨resetEvent ib cb { s with events := [] }, p :: ps, checks⟩ ∧
    Session.turn ⟨s, p :: ps, checks⟩ (.resetDropping ib cb) =
      .next ⟨resetEvent ib cb { s with events := [] }, p.dropped ++ ps, checks ++ p.foundDropped⟩ := ⟨rfl, rfl⟩

/-! ### No step looks past its own event -/

/-- What a pseudocode leaves, with another list of events to come. -/
def CmdResult.withEvents (r : CmdResult) (es : List Event) : CmdResult :=
  { r with state := { r.state with events := es } }

theorem CmdResult.complete_withEvents (r : CmdResult) (es : List Event) :
    (r.withEvents es).complete = { r.complete with events := es } := rfl

theorem needVersion_withEvents (s : State) (es : List Event) (rest rest' : CmdResult) (h : rest' = rest.withEvents es) :
    needVersion { s with events := es } rest' = (needVersion s rest).withEvents es := by
  subst h; unfold needVersion; split <;> rfl

theorem CmdResult.andThen_withEvents (r : CmdResult) (es : List Event) (f : State → CmdResult)
    (h : ∀ s, f { s with events := es } = (f s).withEvents es) :
    (r.withEvents es).andThen f = (r.andThen f).withEvents es := by
  rcases r with ⟨s, _ | e⟩
  · exact h s
  · rfl

section
variable (s : State) (es : List Event)

theorem finderBody_withEvents : finderBody { s with events := es } = (finderBody s).withEvents es :=
  needVersion_withEvents s es _ _ rfl
theorem timingBody_withEvents : timingBody { s with events := es } = (timingBody s).withEvents es :=
  needVersion_withEvents s es _ _ rfl
theorem alignBody_withEvents : alignBody { s with events := es } = (alignBody s).withEvents es :=
  needVersion_withEvents s es _ _ rfl
theorem rsvfmtBody_withEvents : rsvfmtBody { s with events := es } = (rsvfmtBody s).withEvents es :=
  needVersion_withEvents s es _ _ rfl
theorem formatBody_withEvents : formatBody { s with events := es } = (formatBody s).withEvents es :=
  needVersion_withEvents s es _ _ rfl
theorem placeBody_withEvents : placeBody { s with events := es } = (placeBody s).withEvents es :=
  needVersion_withEvents s es _ _ rfl
theorem maskBody_withEvents : maskBody { s with events := es } = (maskBody s).withEvents es :=
  needVersion_withEvents s es _ _ rfl

theorem bitstreamBody_withEvents : bitstreamBody { s with events := es } = (bitstreamBody s).withEvents es := by
  refine needVersion_withEvents s es _ _ ?_
  have h : ∀ v, tooLarge { s with events := es } v = tooLarge s v := fun _ => rfl
  simp only [h]
  split <;> rfl

theorem rsencBody_withEvents (n k : Nat) : rsencBody n k { s with events := es } = (rsencBody n k s).withEvents es := by
  unfold rsencBody
  split
  · rfl
  · split <;> rfl

theorem gfgenBody_withEvents (n j : Byte) :
    gfgenBody n j { s with events := es } = (gfgenBody n j s).withEvents es := by
  unfold gfgenBody
  split
  · rfl
  · split <;> rfl

theorem setverBody_withEvents (a : Byte) : setverBody a { s with events := es } = (setverBody a s).withEvents es := by
  unfold setverBody; split <;> rfl

theorem cleargridBody_withEvents : cleargridBody { s with events := es } = (cleargridBody s).withEvents es := by
  simp only [cleargridBody, CmdResult.withEvents, done]

end

theorem generateStages_withEvents (v : Nat) (s : State) (es : List Event) :
    generateStages v { s with events := es } = (generateStages v s).withEvents es := by
  unfold generateStages
  rw [finderBody_withEvents]
  refine CmdResult.andThen_withEvents _ es _ fun s => ?_
  rw [timingBody_withEvents]
  refine CmdResult.andThen_withEvents _ es _ fun s => ?_
  rw [alignBody_withEvents]
  refine CmdResult.andThen_withEvents _ es _ fun s => ?_
  rw [rsvfmtBody_withEvents]
  refine CmdResult.andThen_withEvents _ es _ fun s => ?_
  rw [bitstreamBody_withEvents]
  refine CmdResult.andThen_withEvents _ es _ fun s => ?_
  rw [rsencBody_withEvents]
  refine CmdResult.andThen_withEvents _ es _ fun s => ?_
  rw [placeBody_withEvents]
  refine CmdResult.andThen_withEvents _ es _ fun s => ?_
  rw [formatBody_withEvents]
  exact CmdResult.andThen_withEvents _ es _ fun s => maskBody_withEvents s es

theorem generateBody_withEvents (s : State) (es : List Event) :
    generateBody { s with events := es } = (generateBody s).withEvents es := by
  unfold generateBody
  rw [cleargridBody_withEvents]
  refine CmdResult.andThen_withEvents _ es _ fun s => ?_
  have h : ∀ v, tooLarge { s with events := es } v = tooLarge s v := fun _ => rfl
  simp only [h]
  split
  · rfl
  · split
    · rfl
    · exact generateStages_withEvents _ (s.setSyminfo _) es

/-- A command does the same whatever events are to come. -/
theorem exec_withEvents {i : Instr} {s t : State} (es : List Event) (h : exec i s = .next t) :
    exec i { s with events := es } = .next { t with events := es } := by
  have body : ∀ {b b' : CmdResult}, b' = b.withEvents es → completes b = .next t →
      completes b' = .next { t with events := es } := by
    rintro b _ rfl hb
    simp only [completes_eq, Host.Outcome.next.injEq] at hb
    rw [completes_eq, CmdResult.complete_withEvents, hb]
  cases i with
  | softreset =>
    simp only [exec, execSoftreset, Host.Outcome.next.injEq] at h ⊢
    subst h
    simp only [softresetState, State.setSyminfo]
  | nop => exact body (b := nopBody s) rfl h
  | clrerr => exact body (b := clrerrBody s) rfl h
  | selver => exact body (b := selverBody s) rfl h
  | gfmul a b => exact body (b := gfmulBody a b s) rfl h
  | gfexp i => exact body (b := gfexpBody i s) rfl h
  | gflog a => exact body (b := gflogBody a s) rfl h
  | generate => exact body (generateBody_withEvents s es) h
  | setver a => exact body (setverBody_withEvents s es a) h
  | bitstream => exact body (bitstreamBody_withEvents s es) h
  | gfgen n j => exact body (gfgenBody_withEvents s es n j) h
  | rsenc n k => exact body (rsencBody_withEvents s es (operand n) (operand k)) h
  | cleargrid => exact body (cleargridBody_withEvents s es) h
  | finder => exact body (finderBody_withEvents s es) h
  | timing => exact body (timingBody_withEvents s es) h
  | align => exact body (alignBody_withEvents s es) h
  | rsvfmt => exact body (rsvfmtBody_withEvents s es) h
  | format => exact body (formatBody_withEvents s es) h
  | place => exact body (placeBody_withEvents s es) h
  | mask => exact body (maskBody_withEvents s es) h

/-- The core's turn does the same whatever events are to come. -/
theorem coreTurn_withEvents {s t : State} (es : List Event) (h : coreTurn s = .next t) :
    coreTurn { s with events := es } = .next { t with events := es } := by
  unfold coreTurn at h ⊢
  split at h
  · next hg =>
    rw [if_pos (show ({ s with events := es } : State).status.state = .generating from hg)]
    cases hc : s.curCmd with
    | none => simp [hc] at h
    | some w =>
      simp only [hc, completeWord] at h ⊢
      cases hd : decode w with
      | ok i =>
        simp only [hd] at h ⊢
        have hx := exec_withEvents es h
        rwa [hc] at hx
      | error e =>
        simp only [hd, completes_eq, Host.Outcome.next.injEq] at h ⊢
        subst h; rfl
  · next hg =>
    rw [if_neg (show ¬ ({ s with events := es } : State).status.state = .generating from hg)]
    simp only [Host.Outcome.next.injEq] at h
    rw [h]

/-- A host access does the same whatever events are to come. -/
theorem hostAccess_withEvents (a : Access) (s : State) (es : List Event) :
    hostAccess a { s with events := es } = { hostAccess a s with events := es } := by
  have hr : ∀ st x m, ({ s with events := es } : State).read st x m = { s.read st x m with events := es } := by
    intro st x m
    simp only [State.read, State.respond]
    split <;> rfl
  have hw : ∀ t : State, ({ s with events := es } : State).write { t with events := es } =
      { s.write t with events := es } := by
    intro t
    simp only [State.write, State.respond]
    split <;> rfl
  have hst : ∀ off m, ({ s with events := es } : State).storeArray off m = { s.storeArray off m with events := es } := by
    intro off m; simp only [State.storeArray, State.setLifecycle]; split <;> rfl
  have hreg : ∀ off v, ({ s with events := es } : State).writeRegister off v =
      { s.writeRegister off v with events := es } := by
    intro off v; unfold State.writeRegister; split <;> rfl
  unfold hostAccess
  split
  · rfl
  · cases a with
    | rd8 off => exact hr _ _ _
    | rd32 off => exact hr _ _ _
    | wr8 off v => simp only [State.writeByte, hst]; exact hw _
    | wr32 off v =>
      have h2 : ({ s with events := es } : State).writeWord off.toNat v =
          { s.writeWord off.toNat v with events := es } := by
        unfold State.writeWord
        split
        · exact hreg _ _
        · exact hst _ _
      simp only [h2]; exact hw _

/-- A step on one event is that step with more events after it. -/
theorem step_withEvents {s t : State} {e : Event} (es : List Event) (h : step { s with events := [e] } = .next t) :
    step { s with events := e :: es } = .next { t with events := es } := by
  cases e with
  | core => exact coreTurn_withEvents (s := { s with events := [] }) es h
  | host a =>
    simp only [step, State.popEvent, List.tail_cons, Host.Outcome.next.injEq] at h ⊢
    subst h
    exact hostAccess_withEvents a { s with events := [] } es
  | reset ib cb =>
    simp only [step, State.popEvent, List.tail_cons, Host.Outcome.next.injEq] at h ⊢
    subst h; rfl

/-! ### A program's run is a run of the machine -/

/-- A turn with an event is the machine's step on it. -/
theorem Session.turn_state {h h' : Session} {turn : Turn} {e : Event} (he : h.event turn = some e)
    (ht : h.turn turn = .next h') : step { h.state with events := [e] } = .next h'.state := by
  simp only [Session.turn, he] at ht
  split at ht
  · next t hs =>
    simp only [Host.Outcome.next.injEq] at ht
    subst ht
    rw [hs]
    unfold Session.after
    split <;> rfl
  · simp at ht
  · simp at ht

/-- A host program that runs through a list of turns leaves the machine where the machine's own run over the
program's expansion leaves it. -/
theorem Session.run_is_machine_run : ∀ (turns : List Turn) (h h' : Session), h.run turns = .next h' →
    Sys2Proof.core.run (h.events turns).length { h.state with events := h.events turns } =
      .next { h'.state with events := [] }
  | [], h, h', hr => by
    simp only [Session.run, Host.Outcome.next.injEq] at hr
    subst hr; rfl
  | turn :: turns, h, h', hr => by
    simp only [Session.run] at hr
    split at hr
    · next h1 ht =>
      have ih := Session.run_is_machine_run turns h1 h' hr
      cases he : h.event turn with
      | none =>
        have : h1 = h := by simpa [Session.turn, he, eq_comm] using ht
        subst this
        simpa [Session.events, ht, he] using ih
      | some e =>
        have hs := step_withEvents (h1.events turns) (Session.turn_state he ht)
        simp only [Session.events, ht, he, Option.toList_some, List.singleton_append, List.length_cons,
          Host.Core.run, Sys2Proof.core] at ih ⊢
        rw [hs]
        exact ih
    · simp at hr
    · simp at hr

end Sys2Proof.Machine
end

