-- ==== Sys2Proof/Laws/PerInstr.lean ====
section
/-! SUPPORT. Statements made per instruction, about the command as syntax: its word carries its row's
fixed bits (30_encoding.md R91-R93). -/

namespace Sys2Proof.Laws.FixedBits

/-- The command's word matches a row of the opcode map that has its mnemonic. -/
def Statement (i : Instr) : Prop :=
  ∃ r ∈ opcodeMap, r.mnemonic = i.mnemonic ∧ r.matches (encode i) = true

theorem fa_matches (op a : Byte) : wordFA op a &&& Format.mask .FA = wordF0 op := by
  apply BitVec.eq_of_getLsbD_eq
  intro i hi
  simp only [wordFA, wordF0, Format.mask, BitVec.getLsbD_and, BitVec.getLsbD_append]
  interval_cases i <;> simp

theorem fab_matches (op a b : Byte) : wordFAB op a b &&& Format.mask .FAB = wordF0 op := by
  apply BitVec.eq_of_getLsbD_eq
  intro i hi
  simp only [wordFAB, wordF0, Format.mask, BitVec.getLsbD_and, BitVec.getLsbD_append]
  interval_cases i <;> simp

theorem fab1_matches (op : Byte) (idx : BitVec 9) : wordFAB1 op idx &&& Format.mask .FAB1 = wordF0 op := by
  apply BitVec.eq_of_getLsbD_eq
  intro i hi
  simp only [wordFAB1, wordF0, Format.mask, BitVec.getLsbD_and, BitVec.getLsbD_append]
  interval_cases i <;> simp

theorem nop : Statement .nop := ⟨⟨"NOP", 0x00#8, .F0⟩, by decide, rfl, by decide⟩
theorem generate : Statement .generate := ⟨⟨"GENERATE", 0x01#8, .F0⟩, by decide, rfl, by decide⟩
theorem softreset : Statement .softreset := ⟨⟨"SOFTRESET", 0x02#8, .F0⟩, by decide, rfl, by decide⟩
theorem clrerr : Statement .clrerr := ⟨⟨"CLRERR", 0x03#8, .F0⟩, by decide, rfl, by decide⟩
theorem selver : Statement .selver := ⟨⟨"SELVER", 0x10#8, .F0⟩, by decide, rfl, by decide⟩
theorem setver (a : Byte) : Statement (.setver a) :=
  ⟨⟨"SETVER", 0x11#8, .FA⟩, by decide, rfl, by simp [OpcodeRow.matches, OpcodeRow.pattern, encode, fa_matches]⟩
theorem bitstream : Statement .bitstream := ⟨⟨"BITSTREAM", 0x20#8, .F0⟩, by decide, rfl, by decide⟩
theorem gfmul (a b : Byte) : Statement (.gfmul a b) :=
  ⟨⟨"GFMUL", 0x30#8, .FAB⟩, by decide, rfl, by simp [OpcodeRow.matches, OpcodeRow.pattern, encode, fab_matches]⟩
theorem gfexp (idx : BitVec 9) : Statement (.gfexp idx) :=
  ⟨⟨"GFEXP", 0x31#8, .FAB1⟩, by decide, rfl, by simp [OpcodeRow.matches, OpcodeRow.pattern, encode, fab1_matches]⟩
theorem gflog (a : Byte) : Statement (.gflog a) :=
  ⟨⟨"GFLOG", 0x32#8, .FA⟩, by decide, rfl, by simp [OpcodeRow.matches, OpcodeRow.pattern, encode, fa_matches]⟩
theorem gfgen (n j : Byte) : Statement (.gfgen n j) :=
  ⟨⟨"GFGEN", 0x33#8, .FAB⟩, by decide, rfl, by simp [OpcodeRow.matches, OpcodeRow.pattern, encode, fab_matches]⟩
theorem rsenc (n k : Byte) : Statement (.rsenc n k) :=
  ⟨⟨"RSENC", 0x34#8, .FAB⟩, by decide, rfl, by simp [OpcodeRow.matches, OpcodeRow.pattern, encode, fab_matches]⟩
theorem cleargrid : Statement .cleargrid := ⟨⟨"CLEARGRID", 0x40#8, .F0⟩, by decide, rfl, by decide⟩
theorem finder : Statement .finder := ⟨⟨"FINDER", 0x41#8, .F0⟩, by decide, rfl, by decide⟩
theorem timing : Statement .timing := ⟨⟨"TIMING", 0x42#8, .F0⟩, by decide, rfl, by decide⟩
theorem align : Statement .align := ⟨⟨"ALIGN", 0x43#8, .F0⟩, by decide, rfl, by decide⟩
theorem rsvfmt : Statement .rsvfmt := ⟨⟨"RSVFMT", 0x44#8, .F0⟩, by decide, rfl, by decide⟩
theorem format : Statement .format := ⟨⟨"FORMAT", 0x45#8, .F0⟩, by decide, rfl, by decide⟩
theorem place : Statement .place := ⟨⟨"PLACE", 0x50#8, .F0⟩, by decide, rfl, by decide⟩
theorem mask : Statement .mask := ⟨⟨"MASK", 0x60#8, .F0⟩, by decide, rfl, by decide⟩

end Sys2Proof.Laws.FixedBits
end

