-- ==== Sys2Proof/Tests/Slice0.lean ====
section
/-! SUPPORT. The model's own tests. Expected values are the spec's: words from 30_encoding.md R90 to R98,
results from 95_test_vectors.md (its section is named at each group), never from a run of this model. After
them, for every statement with hypotheses, a theorem test_witness_<statement> with concrete states and
operands that meet them, at the ends of their ranges. -/

namespace Sys2Proof.Tests

open Sys2Proof.Machine Sys2Proof.Claims

-- The kernel evaluates these tests one after another, not all at once: their memory adds up otherwise.
set_option Elab.async false

/-! ### Decoding: one word of every constructor, written out from R90 to R96 (vectors: 95 §4 to §11) -/

theorem test_decode_nop : decode 0x00000000#32 = .ok .nop := rfl
theorem test_decode_generate : decode 0x00000001#32 = .ok .generate := rfl
theorem test_decode_softreset : decode 0x00000002#32 = .ok .softreset := rfl
theorem test_decode_clrerr : decode 0x00000003#32 = .ok .clrerr := rfl
theorem test_decode_selver : decode 0x00000010#32 = .ok .selver := rfl
theorem test_decode_setver : decode 0x00000911#32 = .ok (.setver 9#8) := rfl
theorem test_decode_bitstream : decode 0x00000020#32 = .ok .bitstream := rfl
theorem test_decode_gfmul : decode 0x00028E30#32 = .ok (.gfmul 0x8E#8 0x02#8) := rfl
theorem test_decode_gfexp : decode 0x0001FE31#32 = .ok (.gfexp 510#9) := rfl
theorem test_decode_gflog : decode 0x00008E32#32 = .ok (.gflog 0x8E#8) := rfl
theorem test_decode_gfgen : decode 0x00060733#32 = .ok (.gfgen 7#8 6#8) := rfl
theorem test_decode_rsenc : decode 0x00220A34#32 = .ok (.rsenc 10#8 34#8) := rfl
theorem test_decode_cleargrid : decode 0x00000040#32 = .ok .cleargrid := rfl
theorem test_decode_finder : decode 0x00000041#32 = .ok .finder := rfl
theorem test_decode_timing : decode 0x00000042#32 = .ok .timing := rfl
theorem test_decode_align : decode 0x00000043#32 = .ok .align := rfl
theorem test_decode_rsvfmt : decode 0x00000044#32 = .ok .rsvfmt := rfl
theorem test_decode_format : decode 0x00000045#32 = .ok .format := rfl
theorem test_decode_place : decode 0x00000050#32 = .ok .place := rfl
theorem test_decode_mask : decode 0x00000060#32 = .ok .mask := rfl

/-- The illegal words of 95 §4, §6 and §9. -/
theorem test_decode_illegal :
    decode 0x00010211#32 = .error .reservedBits ∧ decode 0x01000330#32 = .error .reservedBits ∧
    decode 0x00020031#32 = .error .reservedBits ∧ decode 0x00000100#32 = .error .reservedBits ∧
    decode 0x01000020#32 = .error .reservedBits ∧ decode 0x00000004#32 = .error .unassignedOpcode :=
  ⟨rfl, rfl, rfl, rfl, rfl, rfl⟩

/-- The encoder gives the words of 95 §6 and §11. -/
theorem test_encode :
    encode (.gfmul 0x53#8 0xCA#8) = 0x00CA5330#32 ∧ encode (.gfexp 279#9) = 0x00011731#32 ∧
    encode (.rsenc 10#8 246#8) = 0x00F60A34#32 ∧ encode .mask = 0x00000060#32 := by decide

/-- No two rows of the opcode map share a word (R93). -/
theorem test_opcode_rows_do_not_overlap :
    opcodeMap.Pairwise (fun r r' => r.op ≠ r'.op ∧ r.mnemonic ≠ r'.mnemonic) := by decide

/-! ### WellFormed: each check refuses an ill-formed text (R98) -/

theorem test_wf_refuses_unknown_mnemonic : (AsmCmd.mk "HALT" []).wellFormed = false := by decide
theorem test_wf_refuses_lower_case : (AsmCmd.mk "nop" []).wellFormed = false := by decide
theorem test_wf_refuses_missing_operand : (AsmCmd.mk "GFMUL" [1]).wellFormed = false := by decide
theorem test_wf_refuses_extra_operand : (AsmCmd.mk "NOP" [0]).wellFormed = false := by decide
theorem test_wf_refuses_wide_a : (AsmCmd.mk "SETVER" [256]).wellFormed = false := by decide
theorem test_wf_refuses_wide_b : (AsmCmd.mk "RSENC" [10, 256]).wellFormed = false := by decide
theorem test_wf_refuses_wide_index : (AsmCmd.mk "GFEXP" [512]).wellFormed = false := by decide
theorem test_wf_accepts : (AsmCmd.mk "GFEXP" [511]).wellFormed = true := by decide

/-- An ill-formed text assembles to nothing; the lines of P2 assemble to its words (95 §11). -/
theorem test_assemble :
    (AsmCmd.mk "GFEXP" [512]).assemble = none ∧
    (AsmCmd.mk "GFEXP" [279]).assemble.map encode = some 0x00011731#32 ∧
    (AsmCmd.mk "RSENC" [10, 16]).assemble.map encode = some 0x00100A34#32 := by decide

/-- The host-program lines of P1 (95 §11): RUN is the write to CMD, then POLL. -/
theorem test_run_line :
    (Line.run ⟨"GENERATE", []⟩).ops = some [.access (.wr32 0#13 1#32), .poll] ∧
    (Line.loadText [0x48#8, 0x45#8]).ops =
      some [.access (.wr8 0x100#13 0x48#8), .access (.wr8 0x101#13 0x45#8), .access (.wr32 0x00C#13 2#32)] ∧
    (Line.run ⟨"SETVER", [256]⟩).ops = none ∧ (Line.wr32 0x2000 0).ops = none := by decide

/-- What a run leaves to be done, and what its CHECKs found. -/
def outcomeOf (turns : List Turn) (h : Session) : Option (List HostOp × List Bool) :=
  match h.run turns with
  | .next t => some (t.todo, t.checks)
  | .fault _ => none
  | .refused _ => none

/-- POLL (R99): one read when nothing runs, however many turns follow; while GENERATING it goes on until the
completion. -/
theorem test_poll :
    Session.events [.host, .host] ⟨State.reset, [.poll], []⟩ = [.host (.rd32 4#13)] ∧
    outcomeOf [.host, .host] ⟨State.reset.accept 0#32, [.poll], []⟩ = some ([.poll], []) ∧
    outcomeOf [.host, .core, .host] ⟨State.reset.accept 0#32, [.poll], []⟩ = some ([], []) := by decide +kernel

/-- P5 of 95 §11 with SELVER for GENERATE: a second command written without a POLL. -/
def unpolled (status syminfo : Nat) : Option Session :=
  startProgram [.cmd ⟨"SELVER", []⟩, .cmd ⟨"SOFTRESET", []⟩, .poll, .check 4 status, .check 8 syminfo]
    { State.reset with len := 5#8 }

/-- The write comes first: it is dropped with OVR set. The completion comes first: SOFTRESET runs. -/
theorem test_unpolled_both_orders :
    (unpolled 6 0x0A221902).bind (outcomeOf [.host, .host, .core, .host, .host, .host]) = some ([], [true, true]) ∧
    (unpolled 0 0).bind (outcomeOf [.host, .core, .host, .host, .core, .host, .host, .host]) = some ([], [true, true]) ∧
    (unpolled 0 0).bind (outcomeOf [.host, .host, .core, .host, .host, .host]) = some ([], [false, false]) := by
  decide +kernel

/-- What a run leaves in LEN and QZ. -/
def lenAndQzOf (turns : List Turn) (h : Session) : Option (Byte × Byte) :=
  match h.run turns with
  | .next t => some (t.state.len, t.state.qz)
  | .fault _ => none
  | .refused _ => none

/-- The reset turns with every buffer byte 0. -/
def quietReset : Turn := .reset (Vector.replicate 256 0#8) (Vector.replicate 256 0#8)
def droppingReset : Turn := .resetDropping (Vector.replicate 256 0#8) (Vector.replicate 256 0#8)

/-- A reset at the write of LEN, in a program that writes LEN and then QZ (R340): the write is completed
before it, or dropped by it (LEN then has its reset value either way, and QZ is written after), or has not
begun; and a POLL it falls into goes on. -/
theorem test_reset_in_a_program :
    (startProgram [.wr32 12 5, .wr32 16 7] State.reset).bind (lenAndQzOf [.host, quietReset, .host]) = some (0, 7) ∧
    (startProgram [.wr32 12 5, .wr32 16 7] State.reset).bind (lenAndQzOf [droppingReset, .host]) = some (0, 7) ∧
    (startProgram [.wr32 12 5, .wr32 16 7] State.reset).bind (lenAndQzOf [quietReset, .host, .host]) = some (5, 7) ∧
    outcomeOf [droppingReset] ⟨State.reset.accept 0#32, [.poll], []⟩ = some ([.poll], []) ∧
    outcomeOf [droppingReset] ⟨State.reset, [.check 4#13 0#32], []⟩ = some ([], [false]) := by decide +kernel

/-! ### The tables: lists against the rules that define them (R120, R162 to R164) -/

theorem test_exp_recurrence : expRom.head? = some 1#8 ∧ expRows.drop 1 = (expRows.map timesAlpha).take 255 := by
  decide +kernel
theorem test_exp_second_half : expRom.drop 255 = expRom.take 257 ∧ expRom.length = 512 := by decide +kernel
theorem test_log_inverts_exp : (expRows.take 255).map (fun x => (LOG x).toNat) = List.range 255 := by decide +kernel
theorem test_generator_rows :
    ∀ n < 26, (genericRow (n + 1)).map (fun e => EXP e.toNat) = (generatorPoly (n + 1)).drop 1 := by decide +kernel
theorem test_version_rows : ∀ v < 4, (VT (v + 2)).capBits = 8 * (VT (v + 2)).dcw ∧ (VT (v + 2)).mc = 25 + 4 * v := by
  decide

/-! ### One command on a small state -/

/-- The reset state with version v. -/
def atVersion (v : Nat) : State := { State.reset with syminfo := symRow v }

/-- The reset state with the bytes 0x100.. and 0x200.. listed, and LEN. -/
def holding (len : Byte) (inb cwb : List Byte) (s : State) : State :=
  { s with len := len, mem := (s.mem.writeBytes 0x100 inb).writeBytes 0x200 cwb }

/-- The command answers a next state that f holds of. -/
def after (i : Instr) (s : State) (f : State → Bool) : Bool :=
  match exec i s with
  | .next t => f t
  | .fault _ => false
  | .refused _ => false

/-- The RESULT and STATUS a command leaves. -/
def leaves (i : Instr) (s : State) (r : Byte) (st : Word) : Bool :=
  after i s (fun t => t.result == r && t.status.word == st)

/-- The bytes a command leaves in CWBUF from k, and STATUS. -/
def leavesCw (i : Instr) (s : State) (k : Nat) (bs : List Byte) (st : Word) : Bool :=
  after i s (fun t => (List.range bs.length).map (fun j => t.mem.cwbuf (k + j)) == bs && t.status.word == st)

/-- The GRID bytes a command leaves, as (row, column, byte). -/
def leavesCells (i : Instr) (s : State) (cells : List (Nat × Nat × Byte)) : Bool :=
  after i s (fun t => cells.all (fun x => t.mem.arrayByte (cellAddr x.1 x.2.1) == x.2.2))

-- 95 §9, §4
theorem test_nop : leaves .nop State.reset 0x00#8 0x2#32 = true := by decide
theorem test_clrerr :
    leaves .clrerr { State.reset with status := ⟨.generating, true, true, some .badOperand⟩ } 0#8 0x2#32 = true := by
  decide
theorem test_softreset :
    after .softreset { atVersion 2 with len := 5#8, qz := 0#8, result := 9#8, status := ⟨.generating, true, true, some .badVersion⟩ }
      (fun t => t.status.word == 0#32 && t.syminfo.word == 0#32 && t.len == 0#8 && t.qz == 4#8 && t.result == 0#8) = true := by
  decide +kernel
theorem test_selver_20_21 :
    after .selver { State.reset with len := 20#8 } (fun t => t.syminfo.word == 0x0A221902#32) = true ∧
    after .selver { State.reset with len := 21#8 } (fun t => t.syminfo.word == 0x0F371D03#32) = true := by decide
theorem test_selver_47_255 :
    after .selver { State.reset with len := 47#8 } (fun t => t.syminfo.word == 0x1A6C2505#32) = true ∧
    after .selver { State.reset with len := 255#8 } (fun t => t.syminfo.word == 0x1A6C2505#32) = true := by decide
theorem test_setver :
    after (.setver 4#8) State.reset (fun t => t.syminfo.word == 0x14502104#32 && t.status.word == 0x2#32) = true ∧
    after (.setver 9#8) (atVersion 2) (fun t => t.syminfo.word == 0x0A221902#32 && t.status.word == 0x4A#32) = true := by
  decide

-- 95 §5: B1 HELLO, B6 overflow
theorem test_bitstream_hello :
    leavesCw .bitstream (holding 5#8 [0x48, 0x45, 0x4C, 0x4C, 0x4F] [] (atVersion 2)) 0
      ([0x40, 0x54, 0x84, 0x54, 0xC4, 0xC4, 0xF0, 0xEC, 0x11, 0xEC, 0x11]) 0x2#32 = true := by decide +kernel
theorem test_bitstream_overflow :
    leavesCw .bitstream (holding 33#8 [] [0x77] (atVersion 2)) 0 [0x77] 0x1A#32 = true ∧
    leavesCw .bitstream (holding 5#8 [] [0x77] State.reset) 0 [0x77] 0x4A#32 = true := by decide +kernel

-- 95 §6
theorem test_gfmul : leaves (.gfmul 0x53#8 0xCA#8) State.reset 0x8F#8 0x2#32 = true := by decide +kernel
theorem test_gfmul_zero : leaves (.gfmul 0x37#8 0x00#8) State.reset 0x00#8 0x2#32 = true := by decide +kernel
theorem test_gfexp : leaves (.gfexp 511#9) State.reset 0x02#8 0x2#32 = true := by decide +kernel
theorem test_gflog : leaves (.gflog 0xFF#8) State.reset 0xAF#8 0x2#32 = true := by decide +kernel
theorem test_gfgen : leaves (.gfgen 26#8 25#8) State.reset 0x46#8 0x2#32 = true := by decide +kernel
theorem test_gfgen_errors :
    leaves (.gfgen 10#8 10#8) { State.reset with result := 0x5A#8 } 0x5A#8 0x5A#32 = true ∧
    leaves (.gfgen 27#8 30#8) { State.reset with result := 0x5A#8 } 0x5A#8 0x2A#32 = true := by decide +kernel
-- 95 §2, the ISO/IEC 18004 vector
theorem test_rsenc_iso :
    leavesCw (.rsenc 10#8 16#8)
      (holding 0#8 [] ([0x10, 0x20, 0x0C, 0x56, 0x61, 0x80, 0xEC, 0x11] ++ [0xEC, 0x11, 0xEC, 0x11, 0xEC, 0x11, 0xEC, 0x11])
        State.reset) 16
      [0xA5, 0x24, 0xD4, 0xC1, 0xED, 0x36, 0xC7, 0x87, 0x2C, 0x55] 0x2#32 = true := by decide +kernel
theorem test_rsenc_hole_and_errors :
    leavesCw (.rsenc 5#8 2#8) (holding 0#8 [] [0x01, 0x02]
      { State.reset with params := ⟨.error, .legacyHoles, .reserved⟩ }) 2 [0x02, 0x02, 0x02, 0x02, 0x03] 0x2#32 = true ∧
    leavesCw (.rsenc 10#8 247#8) State.reset 247 [0, 0] 0x5A#32 = true := by decide +kernel

-- 95 §7.1
theorem test_cleargrid :
    (squareCells 37).length = 1369 ∧ (squareCells 37).head? = some (0, 0) ∧ (squareCells 37).getLast? = some (36, 36) ∧
    Memory.setCell [(0x1000, 3#8), (0x1924, 3#8)] 36 36 false false = [(0x1000, 3#8)] := by decide +kernel
theorem test_finder :
    leavesCells .finder (atVersion 2)
      [(0, 0, 3), (1, 1, 2), (2, 2, 3), (7, 7, 2), (8, 8, 0), (0, 24, 3), (24, 0, 3), (17, 0, 2), (7, 17, 2), (9, 9, 0)] = true := by
  decide +kernel
theorem test_timing :
    leavesCells .timing (atVersion 2) [(6, 7, 0), (6, 8, 3), (6, 9, 2), (6, 16, 3), (6, 17, 0), (15, 6, 2), (16, 6, 3)] = true := by
  decide +kernel
theorem test_align :
    leavesCells .align (atVersion 2)
      [(18, 18, 3), (17, 17, 2), (16, 16, 3), (20, 18, 3), (19, 20, 3), (15, 15, 0), (6, 18, 0), (6, 6, 0)] = true := by
  decide +kernel
theorem test_rsvfmt :
    leavesCells .rsvfmt (atVersion 2)
      [(8, 8, 2), (8, 17, 2), (24, 8, 2), (17, 8, 2), (0, 8, 2), (8, 0, 2), (6, 8, 0), (8, 6, 0)] = true := by decide +kernel
theorem test_format :
    leavesCells .format (atVersion 2)
      [(8, 0, 3), (8, 3, 2), (8, 8, 3), (2, 8, 3), (3, 8, 2), (8, 17, 3), (8, 22, 3), (8, 24, 2), (17, 8, 3), (21, 8, 2)] = true := by
  decide +kernel

-- 95 §7.2, the first nine visits: bits 0..8 go to (24,24), (24,23), (23,24), ..., (20,24); a function cell is skipped
/-- The memory after PLACE's first visits at version 2. -/
def placed (visits : Nat) (mem : Memory) : Memory := (((zigzag 25).take visits).foldl (placeCell 44) (mem, 0)).1
theorem test_place :
    ((placed 9 [(0x200, 0x61#8), (0x201, 0x80#8)]).filter (fun c => decide (0x1000 ≤ c.1))) =
      [(0x1518, 1#8), (0x1557, 1#8), (0x15D8, 1#8), (0x1617, 1#8)] := by decide +kernel
theorem test_place_skips_function_cells :
    ((placed 3 [(0x200, 0x80#8), (0x1618, 2#8)]).filter (fun c => decide (0x1000 ≤ c.1))) =
      [(0x1617, 1#8), (0x1618, 2#8)] := by decide +kernel
-- 95 §7.3
/-- A GRID byte after MASK's turn at that cell. -/
def masked (r c : Nat) (b : Byte) : Byte := (maskCell (Memory.write [] (cellAddr r c) b) (r, c)).read (cellAddr r c)
theorem test_mask :
    masked 0 0 1#8 = 0#8 ∧ masked 0 1 0#8 = 0#8 ∧ masked 0 2 0#8 = 1#8 ∧ masked 1 1 1#8 = 0#8 ∧ masked 2 3 3#8 = 3#8 ∧
    masked 4 4 2#8 = 2#8 ∧ masked 24 24 0#8 = 1#8 ∧ masked 24 23 1#8 = 1#8 ∧ (25, 25) ∉ squareCells 25 := by decide +kernel

-- 95 §8 (empty; 107 bytes)
theorem test_generate_empty :
    after .generate (atVersion 2) (fun t => t.status.word == 0x2#32 && t.syminfo.word == 0#32) = true := by decide +kernel
theorem test_generate_oversized :
    after .generate { atVersion 2 with len := 107#8 }
      (fun t => t.status.word == 0x1A#32 && t.syminfo.word == 0#32) = true := by decide +kernel

/-! ### Bus accesses (95 §10) and steps -/

/-- The answer to one access at the reset state. -/
def answerOf (a : Access) : Option BusResponse := (hostAccess a State.reset).response

theorem test_bus_answers :
    answerOf (.rd32 0x010#13) = some ⟨false, 4#32⟩ ∧ answerOf (.rd8 0x004#13) = some ⟨true, 0#32⟩ ∧
    answerOf (.wr8 0x000#13 1#8) = some ⟨true, 0#32⟩ ∧ answerOf (.rd32 0x018#13) = some ⟨true, 0#32⟩ ∧
    answerOf (.rd32 0x102#13) = some ⟨true, 0#32⟩ ∧ answerOf (.rd32 0xFFC#13) = some ⟨true, 0#32⟩ ∧
    answerOf (.rd32 0x1FFC#13) = some ⟨false, 0#32⟩ := by decide
theorem test_bus_inbuf_word :
    ((hostAccess (.wr32 0x100#13 0x4C4C4548#32) State.reset).mem.inbuf 0 = 0x48#8) ∧
    ((hostAccess (.wr32 0x100#13 0x4C4C4548#32) State.reset).mem.inbuf 2 = 0x4C#8) := by decide
theorem test_bus_grid_bytes :
    (hostAccess (.wr8 0x1000#13 0xFF#8) State.reset).mem = [(0x1000, 3#8)] ∧
    (hostAccess (.wr8 0x1025#13 3#8) State.reset).mem = [] := by decide
theorem test_bus_len_write : (hostAccess (.wr32 0x00C#13 0x123#32) State.reset).len = 0x23#8 := by decide

/-- A dropped write, then the completion (95 §9, steps 13 and 14, with NOP). -/
theorem test_dropped_write :
    (hostAccess (.wr32 0x00C#13 5#32) (State.reset.accept 0#32)).status.word = 0x5#32 ∧
    (hostAccess (.wr32 0x00C#13 5#32) (State.reset.accept 0#32)).len = 0#8 ∧
    (∃ t, coreTurn (hostAccess (.wr32 0x00C#13 5#32) (State.reset.accept 0#32)) = .next t ∧
      t.status.word = 0x6#32) := ⟨by decide, by decide, _, rfl, by decide⟩

/-- The host's two probes: the table word decodes, and the very next step runs it. -/
theorem test_fetch_word :
    decodeTableWord 32 0x00CA5330 = some (.gfmul 0x53#8 0xCA#8) ∧ decodeTableWord 32 0x01000330 = none ∧
    step (State.reset.withFetchWord 32 0x00CA5330) =
      exec (.gfmul 0x53#8 0xCA#8) (State.reset.accept 0x00CA5330#32) := ⟨rfl, rfl, rfl⟩

/-! ### Witnesses: the hypotheses of the statements are met, at the ends of their ranges -/

/-- The reset state with a command word latched. -/
def running (w : Word) : State := State.reset.accept w

/-- Every command answers a next state. -/
theorem exec_answers (i : Instr) (s : State) : ∃ t, exec i s = .next t := by cases i <;> exact ⟨_, rfl⟩

/-- The two parameter settings the statements name besides the defaults. -/
def legacyReset : State := { State.reset with params := ⟨.error, .legacyHoles, .reserved⟩ }
def truncateAt (v : Nat) (len : Byte) : State :=
  { State.reset with params := ⟨.truncate, .generic, .none⟩, syminfo := symRow v, len := len }

/-- For every statement whose only hypothesis is HasVersion: TimingStampsTheFreeTimingCells, AlignStampsOneMotif,
RsvfmtReservesTheFormatCells, FormatStampsTheFormatWord, MaskFlipsTheEvenDataCells. -/
theorem test_witness_HasVersion : ∀ v ∈ [2, 3, 4, 5], HasVersion (atVersion v) := by
  simp only [HasVersion]; decide

theorem test_witness_DecodeSelectsTheMatchingRow :
    (∃ r ∈ opcodeMap, r.matches 0x0001FF31#32 = true) ∧ (∀ r ∈ opcodeMap, r.matches 0x00020031#32 = false) ∧
    (∃ r ∈ opcodeMap, r.matches 0x00FFFF30#32 = true) ∧ (∀ r ∈ opcodeMap, r.matches 0x01FFFF30#32 = false) := by decide

/-- Both ends of every range of unassigned opcodes, and the lowest must-be-zero bit of every format. -/
theorem test_witness_IllegalWordsCompleteWithIllegalCmd :
    (∀ op ∈ [0x04, 0x0F, 0x12, 0x1F, 0x21, 0x2F, 0x35, 0x3F, 0x46, 0x4F, 0x51, 0x5F, 0x61, 0xFF],
      decode (BitVec.ofNat 32 op) = .error .unassignedOpcode) ∧
    (∀ op ∈ [0x00, 0x03, 0x10, 0x11, 0x20, 0x30, 0x34, 0x40, 0x45, 0x50, 0x60],
      ∃ i, decode (BitVec.ofNat 32 op) = .ok i) ∧
    (∀ w ∈ [0x00000100#32, 0x00010011#32, 0x01000030#32, 0x00020031#32], decode w = .error .reservedBits) ∧
    State.reset.status.state ≠ .generating ∧ (running 0x61#32).status.state = .generating ∧
    (running 0x61#32).curCmd = some 0x61#32 := by
  refine ⟨?_, ?_, ?_, by decide, rfl, rfl⟩
  · simp only [List.mem_cons, List.not_mem_nil, or_false]
    rintro op (rfl | rfl | rfl | rfl | rfl | rfl | rfl | rfl | rfl | rfl | rfl | rfl | rfl | rfl) <;> rfl
  · simp only [List.mem_cons, List.not_mem_nil, or_false]
    rintro op (rfl | rfl | rfl | rfl | rfl | rfl | rfl | rfl | rfl | rfl | rfl) <;> exact ⟨_, rfl⟩
  · simp only [List.mem_cons, List.not_mem_nil, or_false]
    rintro w (rfl | rfl | rfl | rfl) <;> rfl

theorem test_witness_StepRunsTheDecodedCommand :
    (running 0x60#32).status.state = .generating ∧ (running 0x60#32).curCmd = some 0x60#32 ∧
    decode 0x60#32 = .ok .mask ∧ (running 0x60#32).events = [] ∧
    ({ running 0x60#32 with events := [.core] } : State).events = .core :: [] ∧
    State.reset.status.state ≠ .generating ∧ State.reset.events = [] ∧
    ({ State.reset with events := [.core] } : State).events = .core :: [] ∧
    ({ State.reset with events := [.host (.rd32 4#13)] } : State).events = .host (.rd32 4#13) :: [] :=
  ⟨rfl, rfl, rfl, rfl, rfl, by decide, rfl, rfl, rfl⟩

theorem test_witness_AcceptanceLatchesTheWord :
    State.reset.status.state ≠ .generating ∧ (atVersion 2).status.state ≠ .generating ∧
    (running 1#32).status.state = .generating := ⟨by decide, by decide, rfl⟩

theorem test_witness_CompletionSetsStatusByTheError :
    Instr.clrerr ≠ .softreset ∧ errorOf .clrerr State.reset = none ∧ Instr.mask ≠ .softreset ∧
    errorOf .mask State.reset = some .badVersion := by decide

/-- Every error of R310 that a decoded command raises, at the ends of the ranges of R313's causes. -/
theorem test_witness_ErringCommandsWriteOnlyStatus :
    errorOf (.setver 1#8) State.reset = some .badVersion ∧ errorOf (.setver 6#8) State.reset = some .badVersion ∧
    errorOf .bitstream State.reset = some .badVersion ∧
    errorOf .bitstream { atVersion 2 with len := 33#8 } = some .dataTooLarge ∧
    errorOf .bitstream { atVersion 2 with len := 32#8 } = none ∧
    errorOf (.gfgen 0#8 0#8) State.reset = some .unsupportedEcc ∧
    errorOf (.gfgen 27#8 30#8) State.reset = some .unsupportedEcc ∧
    errorOf (.gfgen 26#8 26#8) State.reset = some .badOperand ∧ errorOf (.gfgen 26#8 25#8) State.reset = none ∧
    errorOf (.rsenc 0#8 255#8) State.reset = some .unsupportedEcc ∧
    errorOf (.rsenc 10#8 247#8) State.reset = some .badOperand ∧ errorOf (.rsenc 10#8 246#8) State.reset = none ∧
    errorOf .generate { State.reset with len := 107#8 } = some .dataTooLarge ∧
    errorOf .generate { State.reset with len := 106#8 } = none ∧ errorOf .place State.reset = some .badVersion := by
  decide

theorem test_witness_NopOnlyCompletes :
    opField 0x00000100#32 = 0#8 ∧ opField 0x80000000#32 = 0#8 ∧ (0x00000100#32 : Word) ≠ 0#32 := by decide

theorem test_witness_ClrerrClearsTheErrorRecord :
    opField 0x00000103#32 = 3#8 ∧ (running 0x103#32).status.state = .generating ∧
    (running 0x103#32).curCmd = some 0x103#32 ∧ (running 3#32).curCmd = some 3#32 ∧
    isWrite (.wr32 0#13 2#32) = true ∧ ¬ raisesBusError (.wr32 0#13 2#32) := by
  refine ⟨by decide, rfl, rfl, rfl, rfl, ?_⟩
  simp [raisesBusError, inReserved]

theorem test_witness_SoftresetRestoresTheResetState :
    opField 0x00000102#32 = 2#8 ∧ (0x00000102#32 : Word) ≠ 2#32 ∧ (running 0x102#32).status.state = .generating ∧
    (running 0x102#32).curCmd = some 0x102#32 := ⟨by decide, by decide, rfl, rfl⟩

/-- The ends of each range of n, and the two sides of the one overflow. -/
theorem test_witness_SelectedVersionFitsUpTo106Bytes :
    (∀ n ∈ [1, 46], 12 + 8 * n ≤ (VT (selectVersion n)).capBits) ∧
    ¬ (VT (selectVersion 106)).capBits < 12 + 8 * 106 ∧ (VT (selectVersion 107)).capBits < 12 + 8 * 107 ∧
    (VT (selectVersion 255)).capBits < 12 + 8 * 255 := by decide

theorem test_witness_SetverSetsOrRejectsTheVersion :
    (0#8).toNat ∈ [0, 2, 3, 4, 5] ∧ (5#8).toNat ∈ [0, 2, 3, 4, 5] ∧ (1#8).toNat = 1 ∧ 5 < (6#8).toNat ∧
    5 < (255#8).toNat ∧ (1#8).toNat ∉ [0, 2, 3, 4, 5] := by decide

theorem test_witness_GfMulIsAFieldMultiplication : (0x53#8 : Byte) ≠ 0#8 ∧ gfMul 0x8E#8 0x02#8 = 0x01#8 := by
  decide +kernel

/-- Index 253 and 254 are the last of the recurrence, 255 and 511 the ends of the repeated half. -/
theorem test_witness_ExpTableFollowsTheRecurrence :
    EXP 254 = 0x8E#8 ∧ EXP 253 = 0x47#8 ∧ EXP 255 = EXP 0 ∧ EXP 511 = EXP 256 := by decide +kernel

theorem test_witness_GflogAnswersTheExponent :
    (0x01#8 : Byte) ≠ 0#8 ∧ alphaPow 0 = 0x01#8 ∧ (0xFF#8 : Byte) ≠ 0#8 ∧ alphaPow 175 = 0xFF#8 := by decide +kernel

theorem test_witness_GfgenAnswersAGeneratorCoefficient :
    State.reset.params.genMode = .generic ∧
    (∀ x ∈ [(1, 0), (26, 0), (26, 25)], 1 ≤ (BitVec.ofNat 8 x.1).toNat ∧ (BitVec.ofNat 8 x.1).toNat ≤ 26 ∧ (BitVec.ofNat 8 x.2).toNat < (BitVec.ofNat 8 x.1).toNat) := by
  decide

theorem test_witness_GfgenUnderLegacyHoles :
    legacyReset.params.genMode = .legacyHoles ∧
    (∀ x ∈ [(7, 6), (20, 19), (1, 0), (26, 25)],
      1 ≤ (BitVec.ofNat 8 x.1).toNat ∧ (BitVec.ofNat 8 x.1).toNat ≤ 26 ∧ (BitVec.ofNat 8 x.2).toNat < (BitVec.ofNat 8 x.1).toNat) ∧
    (7#8).toNat ∈ [7, 10, 15, 20] ∧ (20#8).toNat ∈ [7, 10, 15, 20] ∧ (1#8).toNat ∉ [7, 10, 15, 20] ∧
    (26#8).toNat ∉ [7, 10, 15, 20] := by decide

/-- The ends of n and of the reach k + n. -/
theorem test_witness_RsencWritesOnlyItsParityBytes :
    ∀ x ∈ [(1, 0), (1, 255), (26, 0), (26, 230)],
      1 ≤ (BitVec.ofNat 8 x.1).toNat ∧ (BitVec.ofNat 8 x.1).toNat ≤ 26 ∧ (BitVec.ofNat 8 x.2).toNat + (BitVec.ofNat 8 x.1).toNat ≤ 256 := by decide

theorem test_witness_RsencCodewordVanishesAtTheRoots :
    State.reset.params.genMode = .generic ∧ legacyReset.params.genMode ≠ .generic ∧ (7#8).toNat ∈ [7, 10, 15, 20] ∧
    (20#8).toNat ∈ [7, 10, 15, 20] ∧ (236#8).toNat + (20#8).toNat ≤ 256 ∧ 1 ≤ (26#8).toNat ∧ (26#8).toNat ≤ 26 ∧ (230#8).toNat + (26#8).toNat ≤ 256 := by
  decide

theorem test_witness_RsencDegeneratesInALegacyHole :
    legacyReset.params.genMode = .legacyHoles ∧
    (∀ x ∈ [(1, 255), (5, 2), (26, 230)],
      1 ≤ (BitVec.ofNat 8 x.1).toNat ∧ (BitVec.ofNat 8 x.1).toNat ≤ 26 ∧ (BitVec.ofNat 8 x.2).toNat + (BitVec.ofNat 8 x.1).toNat ≤ 256 ∧ (BitVec.ofNat 8 x.1).toNat ∉ [7, 10, 15, 20]) := by decide

theorem test_witness_RsencOfZeroDataIsZero :
    (∀ i, i < (246#8).toNat → State.reset.mem.cwbuf i = 0#8) ∧ 1 ≤ (10#8).toNat ∧ (10#8).toNat ≤ 26 ∧
    (246#8).toNat + (10#8).toNat ≤ 256 := ⟨fun _ _ => rfl, by decide⟩

/-- No payload, the most version 2 holds, the most version 5 holds (95 §5, B2, B5, B8). -/
theorem test_witness_BitstreamWritesTheClosedForm :
    ∀ x ∈ [(2, 0#8), (2, 32#8), (3, 53#8), (4, 78#8), (5, 106#8)],
      HasVersion { atVersion x.1 with len := x.2 } ∧
      12 + 8 * x.2.toNat ≤ capacity ({ atVersion x.1 with len := x.2 } : State).syminfo.version.toNat := by
  simp only [HasVersion]; decide

theorem test_witness_BitstreamClipsUnderTruncate :
    ∀ x ∈ [(2, 33#8), (3, 54#8), (4, 79#8), (5, 107#8), (5, 255#8)],
      HasVersion (truncateAt x.1 x.2) ∧ (truncateAt x.1 x.2).params.oversize = .truncate ∧
      capacity (truncateAt x.1 x.2).syminfo.version.toNat < 12 + 8 * x.2.toNat := by
  simp only [HasVersion]; decide

theorem test_witness_CleargridClearsEveryCell : 0x1000 ≤ 0x1FFF ∧ 0x1FFF < 0x2000 := by decide

theorem test_witness_FinderStampsFindersAndSeparators :
    HasVersion (atVersion 2) ∧ HasVersion (truncateAt 5 0#8) ∧ (atVersion 2).params.separators = .reserved ∧
    (truncateAt 5 0#8).params.separators = .none := by
  simp only [HasVersion]; decide

theorem test_witness_FunctionAndDataCellCounts :
    (∀ v ∈ [2, 5], HasVersion (atVersion v) ∧ (atVersion v).params.separators = .reserved) ∧
    (∀ v ∈ [2, 5], HasVersion (truncateAt v 0#8) ∧ (truncateAt v 0#8).params.separators = .none) := by
  simp only [HasVersion]; decide

/-- The least side and the sides of the table, the first and the last pair, row and column of a pair. -/
theorem test_witness_ZigzagVisitsEveryCellOffColumnSix :
    (∀ m ∈ [7, 25, 29, 33, 37], m % 2 = 1 ∧ 7 ≤ m) ∧ (zigzag 25)[0]? = some (24, 24) ∧
    (zigzag 25)[1]? = some (24, 23) ∧ (zigzag 25)[599]? = some (24, 0) ∧ (24, 0) ∈ zigzag 25 := by decide +kernel

theorem test_witness_PlaceWritesTheStreamInZigzagOrder :
    HasVersion (atVersion 2) ∧ (zigzag (atVersion 2).syminfo.moduleCount.toNat)[0]? = some (24, 24) ∧
    (atVersion 2).mem.func 24 24 = false := by
  simp only [HasVersion]; decide +kernel

/-- Two states that differ in MODULES of the data cell (24, 24) and in nothing else. -/
def darkened : State := { atVersion 2 with mem := [(0x1618, 1#8)] }

theorem darkened_read (a : Nat) : darkened.mem.read a = if 0x1618 = a then 1#8 else 0#8 := rfl

theorem test_witness_PlaceDependsOnFunctionCellsAndCodewordsOnly :
    ∃ t t' u, HasVersion (atVersion 2) ∧ darkened.syminfo = (atVersion 2).syminfo ∧
      (∀ r c, darkened.mem.func r c = (atVersion 2).mem.func r c) ∧
      (∀ j, j < 256 → darkened.mem.cwbuf j = (atVersion 2).mem.cwbuf j) ∧
      darkened.mem.dark 24 24 ≠ (atVersion 2).mem.dark 24 24 ∧
      exec .place (atVersion 2) = .next t ∧ exec .place darkened = .next t' ∧ exec .place t = .next u ∧
      (24, 24) ∈ zigzag (atVersion 2).syminfo.moduleCount.toNat ∧ (atVersion 2).mem.func 24 24 = false ∧
      ({ atVersion 2 with mem := [(0x1618, 2#8)] } : State).mem.func 24 24 = true := by
  refine ⟨_, _, _, ?_, rfl, fun r c => ?_, fun j hj => ?_, by decide, rfl, rfl, rfl, ?_⟩
  · simp only [HasVersion]; decide
  · rw [Memory.func, darkened_read]
    have h : (atVersion 2).mem.func r c = false := by
      simp [Memory.func, atVersion, State.reset]
    rw [h]
    split <;> exact Bool.and_false _
  · rw [Memory.cwbuf, darkened_read, if_neg (by simp only [cwbufBase]; omega)]; rfl
  · decide +kernel

theorem test_witness_GenerateOfEmptyInput : State.reset.len = 0#8 := rfl

/-- One byte, 106 bytes, and 255 bytes under TRUNCATE. -/
theorem test_witness_GenerateCompletesWithItsVersion :
    (∀ n ∈ [1#8, 106#8], ({ State.reset with len := n } : State).len ≠ 0#8 ∧ n.toNat ≤ 106) ∧
    (truncateAt 0 255#8).len ≠ 0#8 ∧ (truncateAt 0 255#8).params.oversize = .truncate := by decide

/-- GENERATE answers a next state on each of them. -/
theorem test_witness_GenerateEqualsItsStagesByHand :
    ∃ t u, exec .generate { State.reset with len := 1#8 } = .next t ∧ exec .generate (truncateAt 0 255#8) = .next u := by
  obtain ⟨t, ht⟩ := exec_answers .generate { State.reset with len := 1#8 }
  obtain ⟨u, hu⟩ := exec_answers .generate (truncateAt 0 255#8)
  exact ⟨t, u, ht, hu⟩

theorem test_witness_GenerateDependsOnItsInputOnly :
    ∃ t t', exec .generate { State.reset with len := 1#8 } = .next t ∧
      exec .generate { atVersion 5 with len := 1#8 } = .next t' ∧
      ({ atVersion 5 with len := 1#8 } : State).params = State.reset.params := by
  obtain ⟨t, ht⟩ := exec_answers .generate { State.reset with len := 1#8 }
  obtain ⟨u, hu⟩ := exec_answers .generate { atVersion 5 with len := 1#8 }
  exact ⟨t, u, ht, hu, rfl⟩

theorem test_witness_GenerateLeavesAValidCodewordStream :
    ∃ t, ({ State.reset with len := 106#8 } : State).len ≠ 0#8 ∧ (106#8 : Byte).toNat ≤ 106 ∧
      State.reset.params.genMode = .generic ∧ exec .generate { State.reset with len := 106#8 } = .next t ∧
      legacyReset.params.genMode ≠ .generic ∧ (symRow (versionFor 1)).eccCw.toNat ∈ [7, 10, 15, 20] ∧
      (symRow (versionFor 46)).eccCw.toNat ∈ [7, 10, 15, 20] ∧ (symRow (versionFor 47)).eccCw.toNat ∉ [7, 10, 15, 20] := by
  obtain ⟨t, ht⟩ := exec_answers .generate { State.reset with len := 106#8 }
  exact ⟨t, by decide, by decide, rfl, ht, by decide, by decide, by decide, by decide⟩

/-- A data cell at a visit, and a data cell of column 6: (17, 6) when separators are off (95 §8). -/
theorem test_witness_GenerateBuildsTheMaskedSymbol :
    symbolPattern .none 25 24 24 = none ∧ (zigzag 25)[0]? = some (24, 24) ∧ symbolPattern .none 25 17 6 = none ∧
    symbolPattern .reserved 25 0 0 = some true ∧ symbolPattern .reserved 25 17 6 = some false ∧
    (∃ t, exec .generate { State.reset with len := 1#8 } = .next t) := by
  refine ⟨by decide, by decide +kernel, by decide, by decide, by decide, exec_answers _ _⟩

/-- The ends of the reserved ranges and of the arrays, and a misaligned offset. -/
theorem test_witness_BusErrorsChangeNothing :
    raisesBusError (.rd32 0x018#13) ∧ raisesBusError (.rd32 0x0FC#13) ∧ raisesBusError (.wr32 0x300#13 0#32) ∧
    raisesBusError (.wr32 0xFFC#13 0#32) ∧ raisesBusError (.rd32 0x102#13) ∧ raisesBusError (.rd8 0x0FF#13) ∧
    raisesBusError (.wr8 0x300#13 0#8) ∧ raisesBusError (.rd8 0xFFF#13) ∧ ¬ raisesBusError (.rd32 0x014#13) ∧
    ¬ raisesBusError (.rd8 0x100#13) ∧ ¬ raisesBusError (.wr8 0x2FF#13 0#8) ∧ ¬ raisesBusError (.rd8 0x1000#13) ∧
    ¬ raisesBusError (.wr32 0x1FFC#13 0#32) := by
  simp [raisesBusError, inReserved, inArrays]

theorem test_witness_RegisterReadsShowTheirFields : State.reset.status.state ≠ .generating := by decide

theorem test_witness_ArrayReadsAreLittleEndian :
    State.reset.status.state ≠ .generating ∧ inArrays (0x100#13).toNat ∧ (0x100#13).toNat % 4 = 0 ∧
    inArrays (0x2FC#13).toNat ∧ (0x2FC#13).toNat % 4 = 0 ∧ inArrays (0x1000#13).toNat ∧
    inArrays (0x1FFC#13).toNat ∧ (0x1FFC#13).toNat % 4 = 0 ∧ inArrays (0x1FFF#13).toNat := by
  simp only [inArrays]; decide +kernel

theorem test_witness_RegisterWritesHaveTheirSideEffects :
    State.reset.status.state ≠ .generating ∧ (0x014#13 : Offset) = 0x014#13 := ⟨by decide, rfl⟩

/-- The ends of INBUF, of CWBUF and of the GRID window. -/
theorem test_witness_ArrayWritesStoreTheirBytes :
    State.reset.status.state ≠ .generating ∧
    (∀ off ∈ [0x100, 0x1FF, 0x200, 0x2FF, 0x1000, 0x1FFF], inArrays (BitVec.ofNat 13 off).toNat) ∧
    (∀ off ∈ [0x100, 0x1FC, 0x200, 0x2FC, 0x1000, 0x1FFC],
      inArrays (BitVec.ofNat 13 off).toNat ∧ (BitVec.ofNat 13 off).toNat % 4 = 0) := by
  simp only [inArrays]; decide

theorem test_witness_WritesWhileGeneratingAreDropped :
    (running 1#32).status.state = .generating ∧ isWrite (.wr8 0x2FF#13 1#8) = true ∧
    ¬ raisesBusError (.wr8 0x2FF#13 1#8) ∧ isWrite (.wr32 0x000#13 2#32) = true ∧
    ¬ raisesBusError (.wr32 0x000#13 2#32) := by
  refine ⟨rfl, rfl, ?_, rfl, ?_⟩ <;> simp [raisesBusError, inReserved, inArrays]

theorem test_witness_ReadsWhileGenerating :
    (running 1#32).status.state = .generating ∧ isWrite (.rd8 0x100#13) = false ∧ ¬ raisesBusError (.rd8 0x100#13) ∧
    isWrite (.rd32 0x008#13) = false ∧ ¬ raisesBusError (.rd32 0x008#13) := by
  refine ⟨rfl, rfl, ?_, rfl, ?_⟩ <;> simp [raisesBusError, inReserved, inArrays]

/-- A reset event that falls while a command is running. -/
def resetting : State :=
  { running 1#32 with events := [.reset (Vector.replicate 256 0xAA#8) (Vector.replicate 256 0x55#8), .core] }

theorem test_witness_ResetEventGivesTheResetValues :
    resetting.events = .reset (Vector.replicate 256 0xAA#8) (Vector.replicate 256 0x55#8) :: [.core] ∧
    resetting.status.state = .generating := ⟨rfl, rfl⟩

/-- The invariant holds of a state with a command running, a symbol selected, and cells and bytes listed;
and a step goes on from it. -/
theorem test_witness_EveryStepKeepsTheInvariant :
    ∃ s t : State, Inv s ∧ s.status.state = .generating ∧ step s = .next t :=
  ⟨{ (atVersion 2).accept 0x60#32 with mem := [(0x100, 1#8), (0x2FF, 0xFF#8), (0x1000, 3#8), (0x1924, 1#8)] }, _,
    ⟨by decide, by decide, by decide, by decide⟩, rfl, rfl⟩

theorem test_witness_NoStepStops : Inv (running 0x60#32) := ⟨by decide, by decide, by decide, by decide⟩

theorem test_witness_AcceptedCommandsComplete :
    ∃ s : State, Inv s ∧ s.status.state = .generating ∧ s.events = [.host (.rd32 4#13), .core] ∧
      (∀ e ∈ s.events, ∃ a, e = .host a ∨ e = .core) := by
  refine ⟨{ running 0#32 with events := [.host (.rd32 4#13), .core] },
    ⟨by decide, by decide, by decide, by decide⟩, rfl, rfl, ?_⟩
  intro e he
  simp only [List.mem_cons, List.not_mem_nil, or_false] at he
  rcases he with rfl | rfl
  · exact ⟨_, .inl rfl⟩
  · exact ⟨.rd32 4#13, .inr rfl⟩

theorem test_witness_EachRegisterHasItsWriters :
    ∃ t, exec .mask (atVersion 2) = .next t ∧ Instr.mask ≠ .softreset ∧
      Instr.mask.mnemonic ∉ ["SELVER", "SETVER", "GENERATE", "SOFTRESET"] ∧
      Instr.mask.mnemonic ∉ ["GFMUL", "GFEXP", "GFLOG", "GFGEN", "SOFTRESET"] ∧
      Instr.mask.mnemonic ∉ ["BITSTREAM", "RSENC", "GENERATE"] :=
  ⟨_, rfl, by decide, by decide, by decide, by decide⟩

/-- The first row and the first column outside a version 2 symbol, and the last cell of the grid. -/
theorem test_witness_CellsOutsideTheSymbolAreKept :
    ∃ t, exec .finder (atVersion 2) = .next t ∧ Instr.finder.mnemonic ∉ ["CLEARGRID", "GENERATE", "SOFTRESET"] ∧
      (atVersion 2).syminfo.moduleCount.toNat ≤ 25 ∧ (atVersion 2).syminfo.moduleCount.toNat ≤ 36 :=
  ⟨_, rfl, by decide, by decide, by decide⟩

/-- A write dropped by a step sets OVR; a CLRERR that completes clears it. -/
theorem test_witness_OvrIsSetByDroppedWritesOnly :
    (∃ t, step { running 1#32 with events := [.host (.wr32 0x00C#13 5#32)] } = .next t ∧ t.status.ovr = true) ∧
    (running 1#32).status.ovr = false ∧ isWrite (.wr32 0x00C#13 5#32) = true ∧ ¬ raisesBusError (.wr32 0x00C#13 5#32) ∧
    (∃ t, step { running 3#32 with status := ⟨.generating, true, false, none⟩ } = .next t ∧ t.status.ovr = false) :=
  ⟨⟨_, rfl, rfl⟩, rfl, rfl, by simp [raisesBusError, inReserved], _, rfl, rfl⟩

/-- An error recorded, and a CLRERR that completes and takes it away. -/
theorem test_witness_TheFirstErrorIsKept :
    ∃ t, step { running 3#32 with status := ⟨.generating, false, true, some .badVersion⟩ } = .next t ∧
      t.status.err ≠ some .badVersion ∧
      ({ running 3#32 with events := [.host (.rd32 4#13)] } : State).events = .host (.rd32 4#13) :: [] :=
  ⟨_, rfl, by decide, rfl⟩

end Sys2Proof.Tests
end

section
/-! SUPPORT. Which bytes the core's operations store, said once as relations between memories: `CellStores m`
stores cells of the m x m square only (44_patterns.md R201), `CoreStores` stores cells and CWBUF bytes only. -/

namespace Sys2Proof.Machine

/-! ### Stores to cells of the square -/

/-- One store to a cell of the m x m square. -/
def CellStore (m : Nat) (a b : Memory) : Prop := ∃ r c d f, r < m ∧ c < m ∧ b = a.setCell r c d f

/-- Any number of stores, all to cells of the m x m square. -/
abbrev CellStores (m : Nat) : Memory → Memory → Prop := Relation.ReflTransGen (CellStore m)

theorem cellStores_setCell {m r c : Nat} (mem : Memory) (d f : Bool) (hr : r < m) (hc : c < m) :
    CellStores m mem (mem.setCell r c d f) := .single ⟨r, c, d, f, hr, hc, rfl⟩

theorem cellStores_setDark {m r c : Nat} (mem : Memory) (d : Bool) (hr : r < m) (hc : c < m) :
    CellStores m mem (mem.setDark r c d) := cellStores_setCell mem d _ hr hc

theorem cellStores_foldl {α : Type} {m : Nat} {f : Memory → α → Memory} {l : List α}
    (hf : ∀ mem, ∀ x ∈ l, CellStores m mem (f mem x)) (mem : Memory) : CellStores m mem (l.foldl f mem) :=
  List.foldlRecOn l f .refl fun _ h x hx => h.trans (hf _ x hx)

theorem cellStores_setFn (m : Nat) (mem : Memory) (r c : Int) (val : Bool) :
    CellStores m mem (setFn m mem r c val) := by
  rcases setFn_cases m mem r c val with ⟨i, j, -, -, hi, hj, e⟩ | e <;> rw [e]
  exact cellStores_setCell mem val true hi hj

theorem cellStores_stampAll (m : Nat) (mem : Memory) (stamps : List Stamp) :
    CellStores m mem (stampAll m mem stamps) :=
  cellStores_foldl (fun mem p _ => cellStores_setFn m mem p.r p.c p.val) mem

theorem cellStores_timingCell (m : Nat) (mem : Memory) (r c i : Nat) :
    CellStores m mem (timingCell m mem r c i) := by
  rw [timingCell]
  split
  · exact .refl
  · exact cellStores_setFn m mem r c _

theorem cellStores_timingLines (m : Nat) (mem : Memory) : CellStores m mem (timingLines m mem) :=
  cellStores_foldl (fun mem i _ => (cellStores_timingCell m mem 6 i i).trans (cellStores_timingCell m _ i 6 i)) mem

theorem mem_squareCells {n : Nat} {rc : Nat × Nat} : rc ∈ squareCells n ↔ rc.1 < n ∧ rc.2 < n := by
  obtain ⟨r, c⟩ := rc
  simp [squareCells]

theorem cellStores_clearGrid (mem : Memory) : CellStores gridDim mem (clearGrid mem) :=
  cellStores_foldl (fun mem _ h =>
    cellStores_setCell mem _ _ (mem_squareCells.1 h).1 (mem_squareCells.1 h).2) mem

theorem cellStores_maskGrid (m : Nat) (mem : Memory) : CellStores m mem (maskGrid m mem) := by
  refine cellStores_foldl (fun mem rc h => ?_) mem
  rw [maskCell]
  split
  · exact cellStores_setDark mem _ (mem_squareCells.1 h).1 (mem_squareCells.1 h).2
  · exact .refl

theorem mem_pairCells_lt {m right : Nat} {up : Bool} {rc : Nat × Nat} (h : rc ∈ pairCells m right up) :
    rc.1 < m ∧ rc.2 ≤ right := by
  simp only [pairCells, List.mem_flatMap, List.mem_range, List.mem_cons, List.not_mem_nil, or_false] at h
  obtain ⟨vert, hv, h⟩ := h
  have hrow : (if up then m - 1 - vert else vert) < m := by split <;> omega
  rcases h with rfl | rfl
  · exact ⟨hrow, le_rfl⟩
  · exact ⟨hrow, Nat.sub_le right 1⟩

/-- Every visit of the zig-zag from a column of the square is to a cell of the square (R250). -/
theorem mem_zigzagLoop_lt {m : Nat} {rc : Nat × Nat} (fuel right k : Nat) (hr : right ≤ m - 1)
    (h : rc ∈ zigzagLoop m fuel right k) : rc.1 < m ∧ rc.2 < m := by
  induction fuel generalizing right k with
  | zero => simp [zigzagLoop] at h
  | succ fuel ih =>
    rw [zigzagLoop] at h
    by_cases hlt : right < 1
    · simp [hlt] at h
    · simp only [hlt, if_false, List.mem_append] at h
      have hcol : (if right = 6 then 5 else right) ≤ m - 1 := by split <;> omega
      rcases h with h | h
      · obtain ⟨h1, h2⟩ := mem_pairCells_lt h
        exact ⟨h1, by omega⟩
      · exact ih _ _ (by omega) h

theorem mem_zigzag_lt {m : Nat} {rc : Nat × Nat} (h : rc ∈ zigzag m) : rc.1 < m ∧ rc.2 < m :=
  mem_zigzagLoop_lt m (m - 1) 0 le_rfl h

theorem cellStores_placeCell {m t : Nat} {rc : Nat × Nat} (acc : Memory × Nat) (h : rc.1 < m ∧ rc.2 < m) :
    CellStores m acc.1 (placeCell t acc rc).1 := by
  rw [placeCell]
  split
  · exact .refl
  · split <;> exact cellStores_setDark acc.1 _ h.1 h.2

theorem cellStores_placeData (m t : Nat) (mem : Memory) : CellStores m mem (placeData m t mem) :=
  List.foldlRecOn (motive := fun acc => CellStores m mem acc.1) (zigzag m) (placeCell t) (b := (mem, 0)) .refl
    fun acc h _ hrc => h.trans (cellStores_placeCell acc (mem_zigzag_lt hrc))

/-- Cells outside the square are kept by stores to the square. -/
theorem CellStores.outside {m : Nat} {a b : Memory} (h : CellStores m a b) {r c : Nat} (hrc : m ≤ r ∨ m ≤ c) :
    b.dark r c = a.dark r c ∧ b.func r c = a.func r c := by
  induction h with
  | refl => exact ⟨rfl, rfl⟩
  | tail _ hs ih =>
    obtain ⟨i, j, d, f, hi, hj, rfl⟩ := hs
    have hne : ¬ (backed i j = true ∧ i = r ∧ j = c) := by omega
    rwa [Memory.dark_setCell, Memory.func_setCell, if_neg hne, if_neg hne]

/-- The buffers lie below the GRID window, so cell stores keep them. -/
theorem CellStores.read_below {m : Nat} {a b : Memory} (h : CellStores m a b) {x : Nat} (hx : x < 0x1000) :
    b.read x = a.read x := by
  induction h with
  | refl => rfl
  | tail _ hs ih =>
    obtain ⟨i, j, d, f, -, -, rfl⟩ := hs
    rw [Memory.read_setCell_below _ i j d f hx, ih]

theorem CellStores.cwbuf {m : Nat} {a b : Memory} (h : CellStores m a b) {j : Nat} (hj : j < 256) :
    b.cwbuf j = a.cwbuf j := h.read_below (by simp only [cwbufBase]; omega)

/-! ### Stores of the core -/

/-- One store of the core: a cell, or bytes inside CWBUF. -/
def CoreStore (a b : Memory) : Prop :=
  (∃ r c d f, b = a.setCell r c d f) ∨ (∃ k bytes, k + bytes.length ≤ 256 ∧ b = a.setCwbuf k bytes)

/-- Any number of stores of the core. -/
abbrev CoreStores : Memory → Memory → Prop := Relation.ReflTransGen CoreStore

theorem CellStores.coreStores {m : Nat} {a b : Memory} (h : CellStores m a b) : CoreStores a b :=
  Relation.ReflTransGen.mono (fun _ _ ⟨r, c, d, f, _, _, e⟩ => .inl ⟨r, c, d, f, e⟩) a b h

theorem coreStores_setCwbuf {k : Nat} {bytes : List Byte} (mem : Memory) (h : k + bytes.length ≤ 256) :
    CoreStores mem (mem.setCwbuf k bytes) := .single (.inr ⟨k, bytes, h, rfl⟩)

/-- What a cell store and a store into CWBUF keep, the core's stores keep. -/
theorem CoreStores.keeps {a b : Memory} (h : CoreStores a b) (P : Memory → Prop)
    (hcell : ∀ m r c d f, P m → P (m.setCell r c d f))
    (hcw : ∀ m k bytes, k + bytes.length ≤ 256 → P m → P (m.setCwbuf k bytes)) (ha : P a) : P b := by
  induction h with
  | refl => exact ha
  | tail _ hs ih =>
    rcases hs with ⟨r, c, d, f, rfl⟩ | ⟨k, bytes, hk, rfl⟩
    · exact hcell _ r c d f ih
    · exact hcw _ k bytes hk ih

theorem CoreStores.wf {a b : Memory} (h : CoreStores a b) (ha : a.wf = true) : b.wf = true :=
  h.keeps (fun m => m.wf = true) (fun _ r c d f => Memory.wf_setCell r c d f)
    (fun _ _ bytes _ => Memory.wf_writeBytes bytes _) ha

theorem CoreStores.layoutOk {a b : Memory} (h : CoreStores a b) (ha : a.layoutOk = true) : b.layoutOk = true :=
  h.keeps (fun m => m.layoutOk = true) (fun _ r c d f => Memory.layoutOk_setCell r c d f)
    (fun _ _ bytes hk hm => Memory.layoutOk_writeBytes bytes hm (by simp only [cwbufBase]; omega)
      (by simp only [cwbufBase]; omega)) ha

/-- The core never writes INBUF (10_state.md R30). -/
theorem CoreStores.inbuf {a b : Memory} (h : CoreStores a b) {j : Nat} (hj : j < 256) : b.inbuf j = a.inbuf j :=
  h.keeps (fun m => m.inbuf j = a.inbuf j)
    (fun m r c d f hm => (Memory.inbuf_setCell m r c d f (by omega)).trans hm)
    (fun m k bytes _ hm =>
      (Memory.read_setCwbuf_out m k bytes (.inl (by simp only [inbufBase]; omega))).trans hm) rfl

/-- A store inside CWBUF changes no cell. -/
theorem Memory.cells_setCwbuf (mem : Memory) {k : Nat} {bytes : List Byte} (h : k + bytes.length ≤ 256) (r c : Nat) :
    (mem.setCwbuf k bytes).dark r c = mem.dark r c ∧ (mem.setCwbuf k bytes).func r c = mem.func r c := by
  have hread : (mem.setCwbuf k bytes).read (cellAddr r c) = mem.read (cellAddr r c) :=
    Memory.read_setCwbuf_out mem k bytes (.inr (by simp only [cellAddr, gridBase]; omega))
  simp only [Memory.dark, Memory.func, hread, and_self]

/-! ### GENERATE's stages -/

theorem VT_codewords_le (v : Nat) : (VT v).capBits / 8 ≤ 256 := by
  unfold VT
  split <;> simp

theorem coreStores_stagesMemory {v : Nat} (s : State) (h1 : 1 ≤ (VT v).ecc)
    (h2 : (VT v).dcw + (VT v).ecc ≤ 256) : CoreStores s.mem (stagesMemory v s) := by
  unfold stagesMemory
  extract_lets m finders reserved cap data coded
  have hfinders : CellStores m s.mem finders := cellStores_stampAll _ _ _
  have hreserved : CellStores m finders reserved :=
    ((cellStores_timingLines _ _).trans (cellStores_stampAll _ _ _)).trans (cellStores_stampAll _ _ _)
  have hdata : CoreStores reserved data := coreStores_setCwbuf _ (by simpa using VT_codewords_le v)
  have hcoded : CoreStores data coded := by
    have hlen := rsEncode_length_le s.params.genMode (VT v).ecc ((List.range (VT v).dcw).map data.cwbuf) h1
    exact coreStores_setCwbuf _ (by omega)
  have hsymbol : CellStores m coded
      (maskGrid m (stampAll m (placeData m s.totalCw coded) (fmtStamps m formatWord true))) :=
    ((cellStores_placeData _ _ _).trans (cellStores_stampAll _ _ _)).trans (cellStores_maskGrid _ _)
  exact (((CellStores.coreStores (hfinders.trans hreserved)).trans hdata).trans hcoded).trans hsymbol.coreStores

end Sys2Proof.Machine
end

section
/-! SUPPORT. What each command can leave, said once for all 20 (`exec_leaves`); the frame and the invariant of
every command are read off its ten cases. -/

namespace Sys2Proof.Machine

/-- The versions SELVER, SETVER and GENERATE set (41_version.md R120 to R123). -/
def settableVersions : List Nat := [0, 2, 3, 4, 5]

theorem selectVersion_mem (n : Nat) : selectVersion n ∈ settableVersions := by
  unfold selectVersion
  split_ifs <;> decide

theorem operand_mem_of_versionOperandOk {a : Byte} (h : versionOperandOk a = true) :
    operand a ∈ settableVersions := by
  simp only [versionOperandOk, Bool.or_eq_true, beq_iff_eq, Bool.and_eq_true, decide_eq_true_eq] at h
  simp only [settableVersions, List.mem_cons, List.not_mem_nil, or_false]
  omega

theorem consistent_ofVersion {v : Nat} (h : v ∈ settableVersions) : (SymInfo.ofVersion v).consistent = true := by
  revert v
  decide

/-- The states a command can leave: every case writes one thing besides STATUS and CUR_CMD, except SOFTRESET and
GENERATE. Any command may raise an error that leaves the rest of the state alone. -/
inductive Leaves (s : State) : Instr → State → Prop
  | raised (i : Instr) (e : Err) : Leaves s i (raise e s).complete
  | nop : Leaves s .nop (nopBody s).complete
  | clrerr : Leaves s .clrerr (clrerrBody s).complete
  | softreset : Leaves s .softreset (softresetState s)
  | version (i : Instr) (v : Nat) (hi : i.mnemonic ∈ ["SELVER", "SETVER"]) (hv : v ∈ settableVersions) :
      Leaves s i (done (s.setSyminfo v)).complete
  | result (i : Instr) (b : Byte) (hi : i.mnemonic ∈ ["GFMUL", "GFEXP", "GFLOG", "GFGEN"]) :
      Leaves s i (done (s.setResult b)).complete
  | codewords (i : Instr) (k : Nat) (bytes : List Byte) (hi : i.mnemonic ∈ ["BITSTREAM", "RSENC"])
      (hk : k + bytes.length ≤ 256) : Leaves s i (done { s with mem := s.mem.setCwbuf k bytes }).complete
  | cells (i : Instr) (m : Memory)
      (hi : i.mnemonic ∈ ["FINDER", "TIMING", "ALIGN", "RSVFMT", "FORMAT", "PLACE", "MASK"])
      (hm : CellStores s.side s.mem m) : Leaves s i (done { s with mem := m }).complete
  | cleargrid (m : Memory) (hm : CellStores gridDim s.mem m) : Leaves s .cleargrid (done { s with mem := m }).complete
  | generate (v : Nat) (m : Memory) (err : Option Err) (hv : v ∈ settableVersions) (hm : CoreStores s.mem m) :
      Leaves s .generate
        (CmdResult.complete { state := { s with syminfo := SymInfo.ofVersion v, mem := m }, err := err })

/-! ### Every command leaves one of them -/

theorem leaves_setver (a : Byte) (s : State) : Leaves s (.setver a) (setverBody a s).complete := by
  rw [setverBody]
  split
  · next h => exact .version _ _ (by simp [Instr.mnemonic]) (operand_mem_of_versionOperandOk h)
  · exact .raised _ _

theorem leaves_bitstream (s : State) : Leaves s .bitstream (bitstreamBody s).complete := by
  rw [bitstreamBody]
  rcases needVersion_cases s _ with ⟨-, e⟩ | ⟨-, e⟩ <;> rw [e]
  · exact .raised _ _
  · split
    · exact .raised _ _
    · exact .codewords _ _ _ (by simp [Instr.mnemonic]) (by simpa using VT_codewords_le _)

theorem leaves_gfgen (n j : Byte) (s : State) : Leaves s (.gfgen n j) (gfgenBody n j s).complete := by
  rw [gfgenBody]
  split
  · exact .raised _ _
  · split
    · exact .raised _ _
    · exact .result _ _ (by simp [Instr.mnemonic])

theorem leaves_rsenc (n k : Byte) (s : State) :
    Leaves s (.rsenc n k) (rsencBody (operand n) (operand k) s).complete := by
  rw [rsencBody]
  split
  · exact .raised _ _
  · split
    · exact .raised _ _
    · have hlen := rsEncode_length_le s.params.genMode (operand n) ((List.range (operand k)).map s.mem.cwbuf)
        (by omega)
      exact .codewords _ _ _ (by simp [Instr.mnemonic]) (by omega)

/-- A command that needs a version raises BAD_VERSION or stores cells of the symbol (R284). -/
theorem leaves_needVersion {i : Instr} {s : State} {m : Memory}
    (hi : i.mnemonic ∈ ["FINDER", "TIMING", "ALIGN", "RSVFMT", "FORMAT", "PLACE", "MASK"])
    (hm : CellStores s.side s.mem m) : Leaves s i (needVersion s (done { s with mem := m })).complete := by
  rcases needVersion_cases s (done { s with mem := m }) with ⟨-, e⟩ | ⟨-, e⟩ <;> rw [e]
  · exact .raised i _
  · exact .cells i m hi hm

theorem leaves_generate (s : State) : Leaves s .generate (generateBody s).complete := by
  have hclear : CoreStores s.mem (clearGrid s.mem) := CellStores.coreStores (cellStores_clearGrid s.mem)
  by_cases hlen : s.len.toNat = 0
  · rw [generateBody_empty hlen]
    exact .generate 0 _ _ (by decide) hclear
  · cases ht : tooLarge s (selectVersion s.len.toNat)
    · obtain ⟨-, -, -, h1, -, h3⟩ := selectVersion_facts hlen
      rw [generateBody_ok hlen ht]
      generalize clearGrid s.mem = cleared at hclear ⊢
      refine .generate _ _ _ (selectVersion_mem _) (hclear.trans ?_)
      exact coreStores_stagesMemory { s with syminfo := _, mem := cleared } h1 h3
    · rw [generateBody_tooLarge hlen ht]
      exact .generate 0 _ _ (by decide) hclear

theorem exec_leaves (i : Instr) (s : State) : ∃ t, exec i s = .next t ∧ Leaves s i t := by
  cases i with
  | nop => exact ⟨_, rfl, .nop⟩
  | generate => exact ⟨_, rfl, leaves_generate s⟩
  | softreset => exact ⟨_, rfl, .softreset⟩
  | clrerr => exact ⟨_, rfl, .clrerr⟩
  | selver => exact ⟨_, rfl, .version _ _ (by decide) (selectVersion_mem _)⟩
  | setver a => exact ⟨_, rfl, leaves_setver a s⟩
  | bitstream => exact ⟨_, rfl, leaves_bitstream s⟩
  | gfmul a b => exact ⟨_, rfl, .result _ _ (by simp [Instr.mnemonic])⟩
  | gfexp idx => exact ⟨_, rfl, .result _ _ (by simp [Instr.mnemonic])⟩
  | gflog a => exact ⟨_, rfl, .result _ _ (by simp [Instr.mnemonic])⟩
  | gfgen n j => exact ⟨_, rfl, leaves_gfgen n j s⟩
  | rsenc n k => exact ⟨_, rfl, leaves_rsenc n k s⟩
  | cleargrid => exact ⟨_, rfl, .cleargrid _ (cellStores_clearGrid s.mem)⟩
  | finder => exact ⟨_, rfl, leaves_needVersion (by decide) (cellStores_stampAll _ _ _)⟩
  | timing => exact ⟨_, rfl, leaves_needVersion (by decide) (cellStores_timingLines _ _)⟩
  | align => exact ⟨_, rfl, leaves_needVersion (by decide) (cellStores_stampAll _ _ _)⟩
  | rsvfmt => exact ⟨_, rfl, leaves_needVersion (by decide) (cellStores_stampAll _ _ _)⟩
  | format => exact ⟨_, rfl, leaves_needVersion (by decide) (cellStores_stampAll _ _ _)⟩
  | place => exact ⟨_, rfl, leaves_needVersion (by decide) (cellStores_placeData _ _ _)⟩
  | mask => exact ⟨_, rfl, leaves_needVersion (by decide) (cellStores_maskGrid _ _)⟩

theorem leaves_of_exec {i : Instr} {s t : State} (h : exec i s = .next t) : Leaves s i t := by
  obtain ⟨u, hu, hl⟩ := exec_leaves i s
  obtain rfl : u = t := Host.Outcome.next.inj (hu.symm.trans h)
  exact hl

/-! ### What every command keeps -/

section
variable {s t : State} {i : Instr} (h : Leaves s i t)
include h

theorem Leaves.coreStores : CoreStores s.mem t.mem := by
  cases h with
  | raised | nop | clrerr | version | result => exact .refl
  | softreset =>
    rw [softresetState_mem]
    exact CellStores.coreStores (cellStores_clearGrid s.mem)
  | cleargrid m hm => exact hm.coreStores
  | codewords i k bytes hi hk => exact coreStores_setCwbuf s.mem hk
  | cells i m hi hm => exact hm.coreStores
  | generate v m err hv hm => exact hm

theorem Leaves.consistent (hs : s.syminfo.consistent = true) : t.syminfo.consistent = true := by
  cases h with
  | version i v hi hv => exact consistent_ofVersion hv
  | generate v m err hv hm => exact consistent_ofVersion hv
  | softreset => rfl
  | _ => exact hs

/-- After a command nothing is latched and STATE is READY or IDLE (R281). -/
theorem Leaves.latchOk : t.latchOk = true := by
  cases h with
  | softreset => rfl
  | _ => simp [State.latchOk]

/-- The parameters and the model's own fields are no command's. -/
theorem Leaves.modelFields :
    t.params = s.params ∧ t.events = s.events ∧ t.response = s.response ∧ t.draws = s.draws := by
  cases h <;> exact ⟨rfl, rfl, rfl, rfl⟩

theorem Leaves.len_qz (hi : i ≠ .softreset) : t.len = s.len ∧ t.qz = s.qz := by
  cases h with
  | softreset => exact absurd rfl hi
  | _ => exact ⟨rfl, rfl⟩

theorem Leaves.syminfo (hi : i.mnemonic ∉ ["SELVER", "SETVER", "GENERATE", "SOFTRESET"]) :
    t.syminfo = s.syminfo := by
  cases h with
  | version i v hv => exact absurd (List.mem_append_left ["GENERATE", "SOFTRESET"] hv) hi
  | generate => exact absurd (by decide) hi
  | softreset => exact absurd (by decide) hi
  | _ => rfl

theorem Leaves.result_eq (hi : i.mnemonic ∉ ["GFMUL", "GFEXP", "GFLOG", "GFGEN", "SOFTRESET"]) :
    t.result = s.result := by
  cases h with
  | result i b hb => exact absurd (List.mem_append_left ["SOFTRESET"] hb) hi
  | softreset => exact absurd (by decide) hi
  | _ => rfl

theorem Leaves.cwbuf (hi : i.mnemonic ∉ ["BITSTREAM", "RSENC", "GENERATE"]) {j : Nat} (hj : j < 256) :
    t.mem.cwbuf j = s.mem.cwbuf j := by
  cases h with
  | codewords i k bytes hk => exact absurd (List.mem_append_left ["GENERATE"] hk) hi
  | generate => exact absurd (by decide) hi
  | softreset =>
    rw [softresetState_mem]
    exact CellStores.cwbuf (cellStores_clearGrid s.mem) hj
  | cleargrid m hm => exact hm.cwbuf hj
  | cells i m hm hc => exact hc.cwbuf hj
  | _ => rfl

theorem Leaves.outside (hi : i.mnemonic ∉ ["CLEARGRID", "GENERATE", "SOFTRESET"]) {r c : Nat}
    (hrc : s.side ≤ r ∨ s.side ≤ c) : t.mem.dark r c = s.mem.dark r c ∧ t.mem.func r c = s.mem.func r c := by
  cases h with
  | codewords i k bytes hb hk => exact Memory.cells_setCwbuf s.mem hk r c
  | cells i m hm hc => exact hc.outside hrc
  | cleargrid => exact absurd (by decide) hi
  | generate => exact absurd (by decide) hi
  | softreset => exact absurd (by decide) hi
  | _ => exact ⟨rfl, rfl⟩

theorem Leaves.inv (hs : Inv s) : Inv t where
  wf := h.coreStores.wf hs.wf
  layout := h.coreStores.layoutOk hs.layout
  consistent := h.consistent hs.consistent
  latch := h.latchOk

end

end Sys2Proof.Machine
end

section
/-! SUPPORT. What one host access keeps, and that every event keeps the invariant (20_memory.md R60 to R70,
70_reset_and_hazards.md R340). -/

namespace Sys2Proof.Machine

open Sys2Proof.Claims

/-! ### The address map -/

theorem isArray_iff (off : Nat) :
    isArray off = true ↔ (0x100 ≤ off ∧ off < 0x300) ∨ (0x1000 ≤ off ∧ off < 0x2000) := by
  simp only [isArray, isInbuf, isCwbuf, isGrid, Bool.or_eq_true, Bool.and_eq_true, decide_eq_true_eq]
  omega

theorem isGrid_iff (off : Nat) : isGrid off = true ↔ 0x1000 ≤ off ∧ off < 0x2000 := by
  simp only [isGrid, Bool.and_eq_true, decide_eq_true_eq]

theorem isReserved_iff (off : Nat) : isReserved off = true ↔ 0x18 ≤ off ∧ isArray off = false := by
  simp only [isReserved, isRegister, Bool.and_eq_true, Bool.not_eq_true', decide_eq_false_iff_not, not_lt]

/-- The bus errors of the model are the rule's (R62, R69). -/
theorem busError_iff (a : Access) : a.busError = true ↔ raisesBusError a := by
  have bytes : ∀ off : Offset, isArray off.toNat = true ↔ inArrays off.toNat := fun off => by
    rw [isArray_iff, inArrays]
    omega
  have words : ∀ off : Offset, isReserved off.toNat = true ↔ inReserved off.toNat := fun off => by
    rw [isReserved_iff, ← Bool.not_eq_true, isArray_iff, inReserved]
    omega
  cases a with
  | rd8 off | wr8 off v => simp only [Access.busError, raisesBusError, Bool.not_eq_true', ← bytes, Bool.not_eq_true]
  | rd32 off | wr32 off v => simp only [Access.busError, raisesBusError, Bool.or_eq_true, bne_iff_ne, words]

/-! ### Writes to the arrays -/

theorem Memory.wf_setArrayByte {m : Memory} (off : Nat) (v : Byte) (h : m.wf = true) :
    (m.setArrayByte off v).wf = true := by
  rw [Memory.setArrayByte]
  split
  · exact Memory.wf_setCell _ _ _ _ h
  · exact Memory.wf_write _ _ h

theorem Memory.wf_setArrayWord {m : Memory} (off : Nat) (v : Word) (h : m.wf = true) :
    (m.setArrayWord off v).wf = true :=
  wf_setArrayByte _ _ (wf_setArrayByte _ _ (wf_setArrayByte _ _ (wf_setArrayByte _ _ h)))

theorem Memory.layoutOk_setArrayByte {m : Memory} {off : Nat} (v : Byte) (ho : isArray off = true)
    (h : m.layoutOk = true) : (m.setArrayByte off v).layoutOk = true := by
  rw [Memory.setArrayByte]
  split
  · exact Memory.layoutOk_setCell _ _ _ _ h
  · next hg =>
    refine Memory.layoutOk_write h ?_
    simp only [isArray, hg, Bool.or_false] at ho
    simp [cellOk, ho]

theorem Memory.layoutOk_setArrayWord {m : Memory} {off : Nat} (v : Word) (h4 : off % 4 = 0)
    (ho : isArray off = true) (h : m.layoutOk = true) : (m.setArrayWord off v).layoutOk = true := by
  have harr : ∀ k, k < 4 → isArray (off + k) = true := fun k hk => by
    rw [isArray_iff] at ho ⊢
    omega
  exact layoutOk_setArrayByte _ (harr 3 (by omega)) (layoutOk_setArrayByte _ (harr 2 (by omega))
    (layoutOk_setArrayByte _ (harr 1 (by omega)) (layoutOk_setArrayByte _ ho h)))

/-! ### Host accesses keep the invariant -/

theorem State.latchOk_of_idle {s : State} (hc : s.curCmd = none) (hs : s.status.state ≠ .generating) :
    s.latchOk = true := by simp [State.latchOk, hc, hs]

theorem Inv.curCmd_eq_none {s : State} (h : Inv s) (hs : s.status.state ≠ .generating) : s.curCmd = none := by
  have hl := h.latch
  simpa [State.latchOk, hs] using hl

theorem Inv.withEvents {s : State} (h : Inv s) (es : List Event) : Inv { s with events := es } :=
  ⟨h.wf, h.layout, h.consistent, h.latch⟩

theorem Inv.respond {s : State} (h : Inv s) (e : Bool) (d : Word) : Inv (s.respond e d) :=
  ⟨h.wf, h.layout, h.consistent, h.latch⟩

theorem Inv.read {s : State} (h : Inv s) (st : Bool) (exact mask : Word) : Inv (s.read st exact mask) := by
  rcases s.read_cases st exact mask with ⟨-, -, e⟩ | ⟨-, e⟩ <;> rw [e]
  · exact ⟨h.wf, h.layout, h.consistent, h.latch⟩
  · exact h.respond _ _

/-- A dropped write sets OVR only, so a write keeps the invariant when its effect does. -/
theorem Inv.write {s t : State} (h : Inv s) (ht : s.status.state ≠ .generating → Inv t) : Inv (s.write t) := by
  rcases s.write_cases t with ⟨-, e⟩ | ⟨hs, e⟩ <;> rw [e]
  · exact ⟨h.wf, h.layout, h.consistent, h.latch⟩
  · exact (ht hs).respond _ _

theorem Inv.storeArray {s : State} (h : Inv s) (hs : s.status.state ≠ .generating) (off : Nat) {m : Memory}
    (hwf : m.wf = true) (hlay : m.layoutOk = true) : Inv (s.storeArray off m) := by
  rw [State.storeArray]
  split
  · exact ⟨hwf, hlay, h.consistent, State.latchOk_of_idle (h.curCmd_eq_none hs) nofun⟩
  · exact ⟨hwf, hlay, h.consistent, h.latch⟩

theorem Inv.writeRegister {s : State} (h : Inv s) (hs : s.status.state ≠ .generating) (off : Nat) (v : Word) :
    Inv (s.writeRegister off v) := by
  unfold State.writeRegister
  split
  · exact ⟨h.wf, h.layout, h.consistent, rfl⟩
  · exact ⟨h.wf, h.layout, h.consistent, State.latchOk_of_idle (h.curCmd_eq_none hs) nofun⟩
  · exact ⟨h.wf, h.layout, h.consistent, h.latch⟩
  · exact h

theorem Inv.writeByte {s : State} (h : Inv s) (hs : s.status.state ≠ .generating) {off : Nat} (v : Byte)
    (ho : isArray off = true) : Inv (s.writeByte off v) :=
  h.storeArray hs off (Memory.wf_setArrayByte off v h.wf) (Memory.layoutOk_setArrayByte v ho h.layout)

theorem Inv.writeWord {s : State} (h : Inv s) (hs : s.status.state ≠ .generating) {off : Nat} (v : Word)
    (h4 : off % 4 = 0) (ho : isReserved off = false) : Inv (s.writeWord off v) := by
  rw [State.writeWord]
  split
  · exact h.writeRegister hs off v
  · next hr =>
    have harr : isArray off = true := by simpa [isReserved, hr] using ho
    exact h.storeArray hs off (Memory.wf_setArrayWord off v h.wf) (Memory.layoutOk_setArrayWord v h4 harr h.layout)

theorem Inv.hostAccess {s : State} (h : Inv s) (a : Access) : Inv (hostAccess a s) := by
  rcases hostAccess_cases a s with ⟨-, e⟩ | ⟨hb, ⟨off, rfl, e⟩ | ⟨off, rfl, e⟩ | ⟨off, v, rfl, e⟩ | ⟨off, v, rfl, e⟩⟩ <;>
    rw [e]
  · exact h.respond _ _
  · exact h.read _ _ _
  · exact h.read _ _ _
  · exact h.write fun hs => h.writeByte hs v (by simpa [Access.busError] using hb)
  · simp only [Access.busError, Bool.or_eq_false_iff, bne_eq_false_iff_eq] at hb
    exact h.write fun hs => h.writeWord hs v hb.1 hb.2

/-! ### Reset and the core's turn keep it -/

theorem inv_reset : Inv State.reset := ⟨rfl, rfl, rfl, rfl⟩

theorem wf_resetMemory (ib cb : Vector Byte 256) : (resetMemory ib cb).wf = true :=
  Memory.wf_writeBytes _ _ (Memory.wf_writeBytes _ _ Memory.wf_nil)

theorem layoutOk_resetMemory (ib cb : Vector Byte 256) : (resetMemory ib cb).layoutOk = true :=
  Memory.layoutOk_writeBytes _ (Memory.layoutOk_writeBytes _ Memory.layoutOk_nil (by decide)
    (by simp [inbufBase])) (by decide) (by simp [cwbufBase])

theorem inv_resetEvent (ib cb : Vector Byte 256) (s : State) : Inv (resetEvent ib cb s) :=
  ⟨wf_resetMemory ib cb, layoutOk_resetMemory ib cb, inv_reset.consistent, inv_reset.latch⟩

theorem Inv.coreTurn {s t : State} (h : Inv s) (ht : coreTurn s = .next t) : Inv t := by
  rcases coreTurn_cases s with ⟨-, e⟩ | ⟨-, -, e⟩ | ⟨-, -, -, -, -, e⟩ | ⟨-, i, -, -, -, e⟩ <;> rw [e] at ht
  · exact Host.Outcome.next.inj ht ▸ h
  · cases ht
  · exact Host.Outcome.next.inj ht ▸ (Leaves.raised .nop Err.illegalCmd).inv h
  · exact (leaves_of_exec ht).inv h

theorem Inv.step {s t : State} (h : Inv s) (ht : step s = .next t) : Inv t := by
  rcases step_cases s with ⟨-, e⟩ | ⟨es, -, e⟩ | ⟨a, es, -, e⟩ | ⟨ib, cb, es, -, e⟩ <;> rw [e] at ht
  · exact h.coreTurn ht
  · exact (h.withEvents es).coreTurn ht
  · exact Host.Outcome.next.inj ht ▸ (h.withEvents es).hostAccess a
  · exact Host.Outcome.next.inj ht ▸ inv_resetEvent ib cb _

end Sys2Proof.Machine
end

section
/-! SUPPORT. What each event does to STATUS.OVR, ERR and LASTERR (10_state.md R24, R25): a command keeps them or,
SOFTRESET and CLRERR, clears them; a host access changes OVR only, when its write is dropped. -/

namespace Sys2Proof.Machine

open Sys2Proof.Claims

/-! ### Commands -/

/-- OVR as before, and an error in ERR kept. -/
def KeepsFlags (s t : State) : Prop :=
  t.status.ovr = s.status.ovr ∧ ∀ e, s.status.err = some e → t.status.err = some e

/-- OVR = 0 and ERR = NONE. -/
def FlagsClear (t : State) : Prop := t.status.ovr = false ∧ t.status.err = none

theorem keepsFlags_complete {s : State} {r : CmdResult} (h : r.state.status = s.status) :
    KeepsFlags s r.complete := by
  refine ⟨by simp [h], fun e he => ?_⟩
  cases hr : r.err <;> simp [h, he, hr]

theorem Leaves.flags {s t : State} {i : Instr} (h : Leaves s i t) :
    KeepsFlags s t ∨ FlagsClear t ∧ (i = .softreset ∨ i = .clrerr) := by
  cases h with
  | softreset => exact .inr ⟨⟨rfl, rfl⟩, .inl rfl⟩
  | clrerr => exact .inr ⟨⟨rfl, rfl⟩, .inr rfl⟩
  | _ => exact .inl (keepsFlags_complete rfl)

/-- The command whose word is latched while STATE = GENERATING, if the word is legal. -/
def latchedCommand (s : State) : Option Instr :=
  if s.status.state = .generating then s.curCmd.bind (fun w => (decode w).toOption) else none

theorem completing_of_nil {s : State} (h : s.events = []) : completing s = latchedCommand s := by
  rw [completing, h]
  rfl

theorem completing_of_core {s : State} {es : List Event} (h : s.events = .core :: es) :
    completing s = latchedCommand s := by
  rw [completing, h]
  rfl

theorem latchedCommand_of_decode {s : State} {w : Word} {i : Instr} (hs : s.status.state = .generating)
    (hw : s.curCmd = some w) (hd : decode w = .ok i) : latchedCommand s = some i := by
  simp [latchedCommand, hs, hw, hd, Except.toOption]

theorem coreTurn_flags {s t : State} (h : coreTurn s = .next t) :
    KeepsFlags s t ∨
      FlagsClear t ∧ (latchedCommand s = some .softreset ∨ latchedCommand s = some .clrerr) := by
  rcases coreTurn_cases s with ⟨-, e⟩ | ⟨-, -, e⟩ | ⟨-, -, -, -, -, e⟩ | ⟨w, i, hs, hw, hd, e⟩ <;> rw [e] at h
  · exact .inl (Host.Outcome.next.inj h ▸ ⟨rfl, fun _ => id⟩)
  · cases h
  · exact .inl (Host.Outcome.next.inj h ▸ keepsFlags_complete rfl)
  · rw [latchedCommand_of_decode hs hw hd]
    simpa only [Option.some.injEq] using (leaves_of_exec h).flags

/-! ### Host accesses -/

theorem State.storeArray_status (s : State) (off : Nat) (m : Memory) :
    ∃ l, (s.storeArray off m).status = { s.status with state := l } := by
  rw [State.storeArray]
  split <;> exact ⟨_, rfl⟩

theorem State.writeWord_status (s : State) (off : Nat) (v : Word) :
    ∃ l, (s.writeWord off v).status = { s.status with state := l } := by
  rw [State.writeWord]
  split
  · unfold State.writeRegister
    split <;> exact ⟨_, rfl⟩
  · exact s.storeArray_status off _

/-- A host write that raises no bus error and arrives while GENERATING (R67). -/
def DroppedWrite (s : State) (a : Access) : Prop :=
  s.status.state = .generating ∧ isWrite a = true ∧ ¬ raisesBusError a

/-- STATUS after an access: a dropped write sets OVR, and no other access changes a field but STATE (R24, R66, R67). -/
def FlagsByAccess (s : State) (a : Access) (u : Status) : Prop :=
  (DroppedWrite s a ∧ u = { s.status with ovr := true }) ∨
    (¬ DroppedWrite s a ∧ ∃ l, u = { s.status with state := l })

theorem flagsByAccess_write {s t : State} {a : Access} (hb : ¬ raisesBusError a) (hw : isWrite a = true)
    (ht : ∃ l, t.status = { s.status with state := l }) : FlagsByAccess s a (s.write t).status := by
  rcases s.write_cases t with ⟨hs, e⟩ | ⟨hs, e⟩ <;> rw [e]
  · exact .inl ⟨⟨hs, hw, hb⟩, rfl⟩
  · exact .inr ⟨fun hd => hs hd.1, ht⟩

theorem flagsByAccess_read {s : State} {a : Access} (hw : isWrite a = false) (st : Bool) (exact mask : Word) :
    FlagsByAccess s a (s.read st exact mask).status := by
  refine .inr ⟨fun ⟨_, hw', _⟩ => by simp [hw] at hw', s.status.state, ?_⟩
  rcases s.read_cases st exact mask with ⟨-, -, e⟩ | ⟨-, e⟩ <;> rw [e]
  rfl

theorem hostAccess_flags (a : Access) (s : State) : FlagsByAccess s a (hostAccess a s).status := by
  rcases hostAccess_cases a s with ⟨hb, e⟩ | ⟨hb, hcase⟩
  · rw [e]
    exact .inr ⟨fun ⟨_, _, hn⟩ => hn ((busError_iff a).1 hb), s.status.state, rfl⟩
  · have hb' : ¬ raisesBusError a := by simp [← busError_iff, hb]
    rcases hcase with ⟨off, rfl, e⟩ | ⟨off, rfl, e⟩ | ⟨off, v, rfl, e⟩ | ⟨off, v, rfl, e⟩ <;> rw [e]
    · exact flagsByAccess_read rfl _ _ _
    · exact flagsByAccess_read rfl _ _ _
    · exact flagsByAccess_write hb' rfl (s.storeArray_status _ _)
    · exact flagsByAccess_write hb' rfl (s.writeWord_status _ _)

/-! ### Steps -/

/-- The steps that clear OVR and ERR: the completion of SOFTRESET or CLRERR, and a reset (R24, R25). -/
def ClearsFlags (s : State) : Prop :=
  completing s = some .softreset ∨ completing s = some .clrerr ∨ ∃ ib cb es, s.events = .reset ib cb :: es

/-- Every way a step can treat the flags. -/
theorem step_flags {s t : State} (h : step s = .next t) :
    (∃ a es, s.events = .host a :: es ∧ FlagsByAccess s a t.status) ∨
    ((∀ a es, s.events ≠ .host a :: es) ∧ (KeepsFlags s t ∨ FlagsClear t ∧ ClearsFlags s)) := by
  have core (hc : completing s = latchedCommand s) (hf : KeepsFlags s t ∨
      FlagsClear t ∧ (latchedCommand s = some .softreset ∨ latchedCommand s = some .clrerr)) :
      KeepsFlags s t ∨ FlagsClear t ∧ ClearsFlags s := by
    rw [← hc] at hf
    exact hf.imp_right fun ⟨hclear, hcmd⟩ => ⟨hclear, hcmd.imp_right .inl⟩
  rcases step_cases s with ⟨he, e⟩ | ⟨es, he, e⟩ | ⟨a, es, he, e⟩ | ⟨ib, cb, es, he, e⟩ <;> rw [e] at h
  · exact .inr ⟨by simp [he], core (completing_of_nil he) (coreTurn_flags h)⟩
  · exact .inr ⟨by simp [he], core (completing_of_core he) (coreTurn_flags (s := { s with events := es }) h)⟩
  · obtain rfl := Host.Outcome.next.inj h
    exact .inl ⟨a, es, he, hostAccess_flags a { s with events := es }⟩
  · obtain rfl := Host.Outcome.next.inj h
    exact .inr ⟨by simp [he], .inr ⟨⟨rfl, rfl⟩, .inr (.inr ⟨ib, cb, es, he⟩)⟩⟩

end Sys2Proof.Machine
end

section
/-! SUPPORT. The register words field by field (10_state.md R22, R26), and a 32-bit read of a register while no
command runs (20_memory.md R61, R66). -/

namespace Sys2Proof.Machine

open Sys2Proof.Claims

theorem Lifecycle.code_lt (l : Lifecycle) : l.code < 4 := by cases l <;> decide

theorem errField_lt (e : Option Err) : errField e < 16 := by
  rcases e with _ | e
  · decide
  · cases e <;> decide

theorem Status.word_toNat (t : Status) :
    t.word.toNat = t.state.code + 4 * t.ovr.toNat + 8 * t.lasterr.toNat + 16 * errField t.err := by
  have h1 := t.state.code_lt
  have h2 := t.ovr.toNat_lt
  have h3 := t.lasterr.toNat_lt
  have h4 := errField_lt t.err
  rw [Status.word, BitVec.toNat_ofNat, Nat.mod_eq_of_lt (by omega)]

/-- STATUS shows STATE in [1:0], OVR in [2], LASTERR in [3], ERR in [7:4] and 0 above (R22). -/
theorem Status.word_fields (t : Status) :
    (t.word.extractLsb' 0 2).toNat = t.state.code ∧ t.word.getLsbD 2 = t.ovr ∧ t.word.getLsbD 3 = t.lasterr ∧
      (t.word.extractLsb' 4 4).toNat = errField t.err ∧ t.word.extractLsb' 8 24 = 0#24 := by
  have h1 := t.state.code_lt
  have h4 := errField_lt t.err
  have h2 := t.ovr.toNat_lt
  have h3 := t.lasterr.toNat_lt
  refine ⟨?_, ?_, ?_, ?_, BitVec.eq_of_toNat_eq ?_⟩
  · rw [BitVec.extractLsb'_toNat, word_toNat, Nat.shiftRight_zero]
    omega
  · rw [BitVec.getLsbD, word_toNat, Nat.testBit_eq_decide_div_mod_eq]
    cases t.ovr <;> simp <;> omega
  · rw [BitVec.getLsbD, word_toNat, Nat.testBit_eq_decide_div_mod_eq]
    cases t.lasterr <;> simp <;> omega
  · rw [BitVec.extractLsb'_toNat, word_toNat, Nat.shiftRight_eq_div_pow]
    omega
  · rw [BitVec.extractLsb'_toNat, word_toNat, Nat.shiftRight_eq_div_pow, BitVec.toNat_ofNat]
    omega

/-- SYMINFO shows VERSION, MODULE_COUNT, DATA_CW and ECC_CW from the low byte up (R26). -/
theorem SymInfo.word_fields (y : SymInfo) :
    y.word.extractLsb' 0 8 = y.version ∧ y.word.extractLsb' 8 8 = y.moduleCount ∧
      y.word.extractLsb' 16 8 = y.dataCw ∧ y.word.extractLsb' 24 8 = y.eccCw := by
  simp only [SymInfo.word]
  refine ⟨?_, ?_, ?_, ?_⟩
  · rw [BitVec.extractLsb'_append_eq_of_add_le (by decide), BitVec.extractLsb'_append_eq_of_add_le (by decide),
      BitVec.extractLsb'_eq_self]
  · rw [BitVec.extractLsb'_append_eq_of_add_le (by decide), BitVec.extractLsb'_append_eq_left]
  · rw [BitVec.extractLsb'_append_eq_of_le (by decide), BitVec.extractLsb'_append_eq_of_add_le (by decide),
      BitVec.extractLsb'_eq_self]
  · rw [BitVec.extractLsb'_append_eq_of_le (by decide), BitVec.extractLsb'_append_eq_left]

/-- A 32-bit read of a register's offset answers its word and changes nothing else. -/
theorem hostAccess_readRegister {s : State} (hs : s.status.state ≠ .generating) {off : Offset}
    (h4 : off.toNat % 4 = 0) (hr : off.toNat < 0x18) :
    hostAccess (.rd32 off) s = answered s (s.registerWord off.toNat) := by
  have hreg : isRegister off.toNat = true := by simpa [isRegister] using hr
  have hb : Access.busError (.rd32 off) = false := by simp [Access.busError, isReserved, hreg, h4]
  rcases s.read_cases (off.toNat == 0x04) (s.readWord off.toNat) 0xFFFFFFFF#32 with ⟨hg, -, -⟩ | ⟨-, e⟩
  · exact absurd hg hs
  · have hacc : hostAccess (.rd32 off) s = s.respond false (s.readWord off.toNat) := by
      simpa [hostAccess, hb] using e
    rw [hacc, State.readWord, hreg]
    rfl

end Sys2Proof.Machine
end

section
/-! The statements of the state's family, settled. -/

namespace Sys2Proof.Machine

open Sys2Proof.Claims

/-- Settles O54: the core stores only cells and CWBUF bytes (`CoreStores`), the bus only what the map has, and the
latch is filled exactly by acceptance. -/
theorem everyStepKeepsTheInvariant : Obligations.EveryStepKeepsTheInvariant := by
  unfold Obligations.EveryStepKeepsTheInvariant
  exact fun _ _ => Inv.step

/-- Settles O46, register by register from the words' fields. -/
theorem registerReadsShowTheirFields : Obligations.RegisterReadsShowTheirFields := by
  unfold Obligations.RegisterReadsShowTheirFields
  intro s hs
  have reads {off : Offset} := hostAccess_readRegister hs (off := off)
  refine ⟨reads rfl (by decide), ⟨s.status.word, reads rfl (by decide), s.status.word_fields⟩,
    ⟨s.syminfo.word, reads rfl (by decide), s.syminfo.word_fields⟩, ?_, ?_, ?_⟩ <;>
    (rw [BitVec.ofNat_toNat]; exact reads rfl (by decide))

/-- Settles O57, from the ten cases of what a command leaves. -/
theorem eachRegisterHasItsWriters : Obligations.EachRegisterHasItsWriters := by
  unfold Obligations.EachRegisterHasItsWriters
  intro i s t h
  have hl := leaves_of_exec h
  obtain ⟨hparams, hevents, hresponse, hdraws⟩ := hl.modelFields
  exact ⟨hparams, hevents, hresponse, hdraws, fun j hj => hl.coreStores.inbuf hj, hl.len_qz, hl.syminfo,
    hl.result_eq, fun hi j hj => hl.cwbuf hi hj⟩

/-- Settles O58: every cell the pattern, placement and mask commands store lies in the square. -/
theorem cellsOutsideTheSymbolAreKept : Obligations.CellsOutsideTheSymbolAreKept := by
  unfold Obligations.CellsOutsideTheSymbolAreKept
  exact fun i s t h hi r c hrc => (leaves_of_exec h).outside hi hrc

/-- Settles O59, from the ways a step can treat the flags. -/
theorem ovrIsSetByDroppedWritesOnly : Obligations.OvrIsSetByDroppedWritesOnly := by
  unfold Obligations.OvrIsSetByDroppedWritesOnly
  intro s t h
  rcases step_flags h with ⟨a, es, he, ⟨hd, ht⟩ | ⟨hd, l, ht⟩⟩ | ⟨hne, ⟨hovr, -⟩ | ⟨⟨hovr, -⟩, hcl⟩⟩
  · obtain ⟨hs, hw, hb⟩ := hd
    have htrue : t.status.ovr = true := by rw [ht]
    exact ⟨fun _ _ _ _ _ _ => htrue, fun _ _ => ⟨hs, a, es, he, hw, hb⟩, fun _ h0 => by simp [htrue] at h0⟩
  · have hkeep : t.status.ovr = s.status.ovr := by rw [ht]
    refine ⟨fun a' es' he' hw hb hs => ?_, fun h0 h1 => ?_, fun h1 h0 => ?_⟩
    · obtain ⟨rfl, -⟩ : a = a' ∧ es = es' := by simpa [he] using he'
      exact absurd ⟨hs, hw, hb⟩ hd
    · simp [hkeep, h0] at h1
    · simp [hkeep, h1] at h0
  · exact ⟨fun a es he => absurd he (hne a es), fun h0 h1 => by simp [hovr, h0] at h1,
      fun h1 h0 => by simp [hovr, h1] at h0⟩
  · exact ⟨fun a es he => absurd he (hne a es), fun _ h1 => by simp [hovr] at h1, fun _ _ => hcl⟩

/-- Settles O60, from the ways a step can treat the flags. -/
theorem theFirstErrorIsKept : Obligations.TheFirstErrorIsKept := by
  unfold Obligations.TheFirstErrorIsKept
  intro s t h
  rcases step_flags h with ⟨a, es, he, ⟨-, ht⟩ | ⟨-, l, ht⟩⟩ | ⟨hne, ⟨-, herr⟩ | ⟨⟨-, herr⟩, hcl⟩⟩
  · exact ⟨fun e hs hn => absurd (by rw [ht]; exact hs) hn, fun _ _ _ => by rw [ht]; exact ⟨rfl, rfl⟩⟩
  · exact ⟨fun e hs hn => absurd (by rw [ht]; exact hs) hn, fun _ _ _ => by rw [ht]; exact ⟨rfl, rfl⟩⟩
  · exact ⟨fun e hs hn => absurd (herr e hs) hn, fun a es he => absurd he (hne a es)⟩
  · exact ⟨fun _ _ _ => ⟨herr, hcl⟩, fun a es he => absurd he (hne a es)⟩

/-- Settles O53. -/
theorem resetStateMeetsTheInvariant : Obligations.ResetStateMeetsTheInvariant := inv_reset

end Sys2Proof.Machine
end

section
/-! SUPPORT. One equation per kind of host access that raises no bus error, and what a read and a write answer while
a command runs and while none does (20_memory.md R62 to R69). -/

namespace Sys2Proof.Machine

open Sys2Proof.Claims

/-! ### Reads and writes by the lifecycle -/

theorem State.read_of_not_generating {s : State} (hs : s.status.state ≠ .generating) (st : Bool) (exact mask : Word) :
    s.read st exact mask = answered s exact := if_neg fun h => hs h.1

theorem State.read_status (s : State) (exact mask : Word) : s.read true exact mask = answered s exact :=
  if_neg nofun

theorem State.write_of_not_generating {s : State} (hs : s.status.state ≠ .generating) (t : State) :
    s.write t = answered t 0#32 := if_neg hs

theorem State.write_of_generating {s : State} (hs : s.status.state = .generating) (t : State) :
    s.write t = { answered s 0#32 with status := { s.status with ovr := true } } := if_pos hs

/-- A read answers some word and changes at most the count of free values (R66, R68). -/
theorem State.read_answers (s : State) (st : Bool) (exact mask : Word) :
    ∃ d n, s.read st exact mask = { answered s d with draws := n } := by
  rcases s.read_cases st exact mask with ⟨-, -, e⟩ | ⟨-, e⟩ <;> exact ⟨_, _, e⟩

/-- A free value drawn by an 8-bit read has 8 bits (R68). -/
theorem State.read_byte_of_generating {s : State} (hs : s.status.state = .generating) (exact : Word) :
    ∃ d n, s.read false exact 0xFF#32 = { answered s d with draws := n } ∧ d.toNat < 256 := by
  refine ⟨Config.freeRead s.draws &&& 0xFF#32, s.draws + 1, if_pos ⟨hs, rfl⟩, ?_⟩
  rw [BitVec.toNat_and]
  exact Nat.lt_succ_of_le Nat.and_le_right

/-! ### The kinds of access -/

theorem hostAccess_of_busError {a : Access} (h : raisesBusError a) (s : State) :
    hostAccess a s = s.respond true 0#32 := if_pos ((busError_iff a).2 h)

theorem hostAccess_rd8 {off : Offset} (h : ¬ raisesBusError (.rd8 off)) (s : State) :
    hostAccess (.rd8 off) s = s.read false ((s.mem.arrayByte off.toNat).setWidth 32) 0xFF#32 :=
  if_neg (mt (busError_iff _).1 h)

theorem hostAccess_rd32 {off : Offset} (h : ¬ raisesBusError (.rd32 off)) (s : State) :
    hostAccess (.rd32 off) s = s.read (off.toNat == 0x04) (s.readWord off.toNat) 0xFFFFFFFF#32 :=
  if_neg (mt (busError_iff _).1 h)

theorem hostAccess_wr8 {off : Offset} {v : Byte} (h : ¬ raisesBusError (.wr8 off v)) (s : State) :
    hostAccess (.wr8 off v) s = s.write (s.writeByte off.toNat v) := if_neg (mt (busError_iff _).1 h)

theorem hostAccess_wr32 {off : Offset} {v : Word} (h : ¬ raisesBusError (.wr32 off v)) (s : State) :
    hostAccess (.wr32 off v) s = s.write (s.writeWord off.toNat v) := if_neg (mt (busError_iff _).1 h)

theorem hostAccess_isWrite {a : Access} (hw : isWrite a = true) (h : ¬ raisesBusError a) (s : State) :
    ∃ t, hostAccess a s = s.write t := by
  cases a with
  | rd8 off | rd32 off => cases hw
  | wr8 off v => exact ⟨_, hostAccess_wr8 h s⟩
  | wr32 off v => exact ⟨_, hostAccess_wr32 h s⟩

/-- An access that raises no bus error is answered without an error (R69). -/
theorem hostAccess_answers {a : Access} (h : ¬ raisesBusError a) (s : State) :
    ∃ d, (hostAccess a s).response = some ⟨false, d⟩ := by
  have reads (st : Bool) (exact mask : Word) : ∃ d, (s.read st exact mask).response = some ⟨false, d⟩ := by
    obtain ⟨d, n, e⟩ := s.read_answers st exact mask
    exact ⟨d, by rw [e]; rfl⟩
  have writes (t : State) : (s.write t).response = some ⟨false, 0#32⟩ := by
    rcases s.write_cases t with ⟨-, e⟩ | ⟨-, e⟩ <;> rw [e]
    rfl
  cases a with
  | rd8 off => exact hostAccess_rd8 h s ▸ reads _ _ _
  | rd32 off => exact hostAccess_rd32 h s ▸ reads _ _ _
  | wr8 off v => exact hostAccess_wr8 h s ▸ ⟨_, writes _⟩
  | wr32 off v => exact hostAccess_wr32 h s ▸ ⟨_, writes _⟩

theorem hostAccess_readsStatus (s : State) : hostAccess (.rd32 0x004#13) s = answered s s.status.word := by
  have h : ¬ raisesBusError (.rd32 0x004#13) := by simp [raisesBusError, inReserved]
  rw [hostAccess_rd32 h]
  exact s.read_status _ _

/-- While a command runs a read answers some value of its width and changes at most the count of free values. -/
theorem hostAccess_read_of_generating {s : State} (hs : s.status.state = .generating) {a : Access}
    (hw : isWrite a = false) (h : ¬ raisesBusError a) :
    ∃ (d : Word) (n : Nat), hostAccess a s = { answered s d with draws := n } ∧
      ∀ off, a = .rd8 off → d.toNat < 256 := by
  cases a with
  | rd8 off =>
    obtain ⟨d, n, e, hd⟩ := State.read_byte_of_generating hs ((s.mem.arrayByte off.toNat).setWidth 32)
    exact ⟨d, n, (hostAccess_rd8 h s).trans e, fun _ _ => hd⟩
  | rd32 off =>
    obtain ⟨d, n, e⟩ := s.read_answers (off.toNat == 0x04) (s.readWord off.toNat) 0xFFFFFFFF#32
    exact ⟨d, n, (hostAccess_rd32 h s).trans e, nofun⟩
  | wr8 off v | wr32 off v => cases hw

/-- A 32-bit write to a register's offset while no command runs has the register's effect (R66). -/
theorem hostAccess_writeRegister {s : State} (hs : s.status.state ≠ .generating) {off : Offset}
    (h4 : off.toNat % 4 = 0) (hr : off.toNat < 0x18) (v : Word) :
    hostAccess (.wr32 off v) s = answered (s.writeRegister off.toNat v) 0#32 := by
  have hb : ¬ raisesBusError (.wr32 off v) := by
    simp only [raisesBusError, inReserved]
    omega
  have hreg : isRegister off.toNat = true := by simpa [isRegister] using hr
  rw [hostAccess_wr32 hb, State.write_of_not_generating hs, State.writeWord, if_pos hreg]

end Sys2Proof.Machine
end

section
/-! SUPPORT. The bytes of the arrays as the host sees and stores them (20_memory.md R63 to R65), and the accesses to
them while no command runs. -/

namespace Sys2Proof.Machine

open Sys2Proof.Claims

/-! ### The bytes shown -/

theorem isArray_toNat_iff (off : Offset) : isArray off.toNat = true ↔ inArrays off.toNat := by
  rw [isArray_iff, inArrays]
  omega

/-- An aligned word lies whole in its array. -/
theorem isArray_add {off k : Nat} (h4 : off % 4 = 0) (hk : k < 4) (ho : isArray off = true) :
    isArray (off + k) = true := by
  rw [isArray_iff] at ho ⊢
  omega

theorem cellAddr_window {off : Nat} (h : 0x1000 ≤ off) : cellAddr (windowRow off) (windowCol off) = off := by
  simp only [cellAddr, windowRow, windowCol, gridBase]
  omega

theorem shownByte_of_lt (m : Memory) {off : Nat} (h : off < 0x1000) : shownByte m off = m.read off := if_pos h

/-- In the GRID window the host sees the cell's two bits, which are 0 when the cell is unbacked (R64). -/
theorem shownByte_of_ge (m : Memory) {off : Nat} (h : 0x1000 ≤ off) :
    shownByte m off = cellByte (m.dark (windowRow off) (windowCol off)) (m.func (windowRow off) (windowCol off)) := by
  rw [shownByte, if_neg (by omega)]
  by_cases hb : windowRow off < 37 ∧ windowCol off < 37
  · exact if_pos hb
  · have hnb : backed (windowRow off) (windowCol off) = false := by
      rwa [← Bool.not_eq_true, backed_iff]
    rw [Memory.dark, Memory.func, hnb]
    exact if_neg hb

theorem keptByte_of_lt {off : Nat} (v : Byte) (h : off < 0x1000) : keptByte off v = v := if_pos h

theorem keptByte_of_ge {off : Nat} (v : Byte) (h : 0x1000 ≤ off) :
    keptByte off v = if backed (windowRow off) (windowCol off) = true then v &&& 3#8 else 0#8 := by
  rw [keptByte, if_neg (by omega)]
  simp only [backed_iff]
  rfl

theorem cellByte_bits (v : Byte) : cellByte (v.getLsbD 0) (v.getLsbD 1) = v &&& 3#8 := by
  revert v
  decide

theorem Memory.arrayByte_eq_shownByte (m : Memory) {off : Nat} (ho : isArray off = true) :
    m.arrayByte off = shownByte m off := by
  rw [isArray_iff] at ho
  rw [Memory.arrayByte]
  split
  · next hg => rw [shownByte_of_ge m ((isGrid_iff off).1 hg).1]
  · next hg =>
    rw [isGrid_iff] at hg
    rw [shownByte_of_lt m (by omega)]

/-- Byte `off + i` of a word read stands in bits [8i+7:8i] (R63); SYMINFO's word is put together from four bytes in
the same order. -/
theorem Memory.arrayWord_extract (m : Memory) (off : Nat) {i : Nat} (hi : i < 4) :
    (m.arrayWord off).extractLsb' (8 * i) 8 = m.arrayByte (off + i) := by
  obtain ⟨h0, h1, h2, h3⟩ := SymInfo.word_fields
    ⟨m.arrayByte off, m.arrayByte (off + 1), m.arrayByte (off + 2), m.arrayByte (off + 3)⟩
  match i, hi with
  | 0, _ => exact h0
  | 1, _ => exact h1
  | 2, _ => exact h2
  | 3, _ => exact h3

/-! ### The bytes stored -/

/-- What the host sees at an offset depends on the byte there alone. -/
theorem shownByte_congr {m m' : Memory} {a : Nat} (h : m.read a = m'.read a) : shownByte m a = shownByte m' a := by
  rcases Nat.lt_or_ge a 0x1000 with ha | ha
  · rw [shownByte_of_lt m ha, shownByte_of_lt m' ha, h]
  · simp only [shownByte_of_ge _ ha, Memory.dark, Memory.func, cellAddr_window ha, h]

theorem Memory.read_setArrayByte_ne (m : Memory) {off a : Nat} (v : Byte) (h : a ≠ off) :
    (m.setArrayByte off v).read a = m.read a := by
  rw [Memory.setArrayByte]
  split
  · next hg =>
    rw [Memory.read_setCell, cellAddr_window ((isGrid_iff off).1 hg).1, if_neg fun e => h e.2.symm]
  · exact Memory.read_write_ne m v h.symm

theorem Memory.shownByte_setArrayByte_self (m : Memory) {off : Nat} (v : Byte) (ho : isArray off = true) :
    shownByte (m.setArrayByte off v) off = keptByte off v := by
  rw [isArray_iff] at ho
  rw [Memory.setArrayByte]
  split
  · next hg =>
    have hge := ((isGrid_iff off).1 hg).1
    rw [shownByte_of_ge _ hge, keptByte_of_ge v hge, Memory.dark_setCell, Memory.func_setCell]
    by_cases hb : backed (windowRow off) (windowCol off) = true
    · rw [if_pos ⟨hb, rfl, rfl⟩, if_pos ⟨hb, rfl, rfl⟩, if_pos hb, cellByte_bits]
    · simp [hb, Memory.dark, Memory.func, cellByte]
  · next hg =>
    rw [isGrid_iff] at hg
    have hlt : off < 0x1000 := by omega
    rw [shownByte_of_lt _ hlt, keptByte_of_lt v hlt, Memory.read_write_self]

theorem Memory.shownByte_setArrayByte_ne (m : Memory) {off a : Nat} (v : Byte) (h : a ≠ off) :
    shownByte (m.setArrayByte off v) a = shownByte m a := shownByte_congr (m.read_setArrayByte_ne v h)

theorem Memory.read_setArrayWord_ne (m : Memory) {off a : Nat} (v : Word) (h : a < off ∨ off + 4 ≤ a) :
    (m.setArrayWord off v).read a = m.read a := by
  rw [Memory.setArrayWord, read_setArrayByte_ne _ _ (by omega), read_setArrayByte_ne _ _ (by omega),
    read_setArrayByte_ne _ _ (by omega), read_setArrayByte_ne _ _ (by omega)]

/-- Bits [8i+7:8i] of a word written are stored at offset `off + i` (R63). -/
theorem Memory.shownByte_setArrayWord (m : Memory) {off i : Nat} (v : Word) (h4 : off % 4 = 0)
    (ho : isArray off = true) (hi : i < 4) :
    shownByte (m.setArrayWord off v) (off + i) = keptByte (off + i) (v.extractLsb' (8 * i) 8) := by
  have harr := isArray_add h4 hi ho
  rw [Memory.setArrayWord]
  match i, hi with
  | 0, _ =>
    rw [shownByte_setArrayByte_ne _ _ (by omega), shownByte_setArrayByte_ne _ _ (by omega),
      shownByte_setArrayByte_ne _ _ (by omega)]
    exact shownByte_setArrayByte_self _ _ harr
  | 1, _ =>
    rw [shownByte_setArrayByte_ne _ _ (by omega), shownByte_setArrayByte_ne _ _ (by omega)]
    exact shownByte_setArrayByte_self _ _ harr
  | 2, _ =>
    rw [shownByte_setArrayByte_ne _ _ (by omega)]
    exact shownByte_setArrayByte_self _ _ harr
  | 3, _ => exact shownByte_setArrayByte_self _ _ harr

/-! ### Accesses to the arrays -/

/-- The state after an allowed write that leaves memory `m`, at offset `off` of an array: INBUF's offsets set IDLE. -/
def arrayWritten (s : State) (off : Nat) (m : Memory) : State :=
  { answered s 0#32 with mem := m, status := if off < 0x200 then { s.status with state := .idle } else s.status }

theorem State.storeArray_answered (s : State) {off : Nat} (ho : inArrays off) (m : Memory) :
    answered (s.storeArray off m) 0#32 = arrayWritten s off m := by
  have hin : isInbuf off = true ↔ off < 0x200 := by
    simp only [inArrays] at ho
    simp only [isInbuf, Bool.and_eq_true, decide_eq_true_eq]
    omega
  by_cases h : off < 0x200
  · simp [State.storeArray, arrayWritten, hin, h, answered, State.setLifecycle]
  · simp [State.storeArray, arrayWritten, hin, h, answered]

theorem not_raisesBusError_word {off : Offset} (ho : inArrays off.toNat) (h4 : off.toNat % 4 = 0) :
    ¬ (off.toNat % 4 ≠ 0 ∨ inReserved off.toNat) := by
  simp only [inArrays] at ho
  simp only [inReserved]
  omega

theorem isRegister_of_inArrays {off : Nat} (ho : inArrays off) : isRegister off = false := by
  simp only [inArrays] at ho
  simp only [isRegister, decide_eq_false_iff_not]
  omega

section
variable {s : State} {off : Offset} (hs : s.status.state ≠ .generating) (ho : inArrays off.toNat)
include hs ho

theorem hostAccess_readArrayByte : hostAccess (.rd8 off) s = answered s ((shownByte s.mem off.toNat).setWidth 32) := by
  rw [hostAccess_rd8 (not_not_intro ho), State.read_of_not_generating hs,
    Memory.arrayByte_eq_shownByte _ ((isArray_toNat_iff off).2 ho)]

theorem hostAccess_readArrayWord (h4 : off.toNat % 4 = 0) :
    hostAccess (.rd32 off) s = answered s (s.mem.arrayWord off.toNat) := by
  rw [hostAccess_rd32 (not_raisesBusError_word ho h4), State.read_of_not_generating hs, State.readWord,
    isRegister_of_inArrays ho]
  rfl

theorem hostAccess_writeArrayByte (v : Byte) :
    hostAccess (.wr8 off v) s = arrayWritten s off.toNat (s.mem.setArrayByte off.toNat v) := by
  rw [hostAccess_wr8 (not_not_intro ho), State.write_of_not_generating hs]
  exact s.storeArray_answered ho _

theorem hostAccess_writeArrayWord (h4 : off.toNat % 4 = 0) (v : Word) :
    hostAccess (.wr32 off v) s = arrayWritten s off.toNat (s.mem.setArrayWord off.toNat v) := by
  rw [hostAccess_wr32 (not_raisesBusError_word ho h4), State.write_of_not_generating hs, State.writeWord,
    isRegister_of_inArrays ho]
  exact s.storeArray_answered ho _

end

end Sys2Proof.Machine
end

section
/-! The statements of the bus's family, settled. -/

namespace Sys2Proof.Machine

open Sys2Proof.Claims

/-- Settles O45: the model's bus errors are the rule's, and every other access is a read or a write that answers. -/
theorem busErrorsChangeNothing : Obligations.BusErrorsChangeNothing := by
  unfold Obligations.BusErrorsChangeNothing
  exact fun s a => ⟨fun h => hostAccess_of_busError h s, fun h => hostAccess_answers h s⟩

/-- Settles O47: the model's bytes and the word's lanes are the ones shown. -/
theorem arrayReadsAreLittleEndian : Obligations.ArrayReadsAreLittleEndian := by
  unfold Obligations.ArrayReadsAreLittleEndian
  intro s off hs ho
  refine ⟨?_, fun h4 => ⟨s.mem.arrayWord off.toNat, hostAccess_readArrayWord hs ho h4, fun i hi => ?_⟩⟩
  · rw [BitVec.ofNat_toNat]
    exact hostAccess_readArrayByte hs ho
  · rw [Memory.arrayWord_extract _ _ hi,
      Memory.arrayByte_eq_shownByte _ (isArray_add h4 hi ((isArray_toNat_iff off).2 ho))]

/-- Settles O49: each write is `arrayWritten` of the memory its bytes are stored in. -/
theorem arrayWritesStoreTheirBytes : Obligations.ArrayWritesStoreTheirBytes := by
  unfold Obligations.ArrayWritesStoreTheirBytes
  intro s off hs ho
  have harr := (isArray_toNat_iff off).2 ho
  refine ⟨fun v => ?_, fun v h4 => ?_⟩
  · rw [hostAccess_writeArrayByte hs ho]
    exact ⟨rfl, s.mem.shownByte_setArrayByte_self v harr, fun a ha => s.mem.read_setArrayByte_ne v ha⟩
  · rw [hostAccess_writeArrayWord hs ho h4]
    exact ⟨rfl, fun i hi => s.mem.shownByte_setArrayWord v h4 harr hi, fun a ha => s.mem.read_setArrayWord_ne v ha⟩

/-- Settles O51: STATUS is read exactly, every other read draws a free value of its width. -/
theorem readsWhileGenerating : Obligations.ReadsWhileGenerating := by
  unfold Obligations.ReadsWhileGenerating
  exact fun s hs => ⟨hostAccess_readsStatus s, fun _ hw h => hostAccess_read_of_generating hs hw h⟩

/-- Settles O48, register by register. -/
theorem registerWritesHaveTheirSideEffects : Obligations.RegisterWritesHaveTheirSideEffects := by
  unfold Obligations.RegisterWritesHaveTheirSideEffects
  intro s v hs
  have writes {off : Offset} (h4 : off.toNat % 4 = 0) (hr : off.toNat < 0x18) :=
    hostAccess_writeRegister hs h4 hr v
  refine ⟨writes (off := 0x00C#13) rfl (by decide), writes (off := 0x010#13) rfl (by decide), ?_⟩
  rintro off (rfl | rfl | rfl) <;> exact writes rfl (by decide)

/-- Settles O50. -/
theorem writesWhileGeneratingAreDropped : Obligations.WritesWhileGeneratingAreDropped := by
  unfold Obligations.WritesWhileGeneratingAreDropped
  intro s a hs hw h
  obtain ⟨t, e⟩ := hostAccess_isWrite hw h s
  exact ⟨_, e.trans (State.write_of_generating hs t)⟩

end Sys2Proof.Machine
end

section
/-! SUPPORT. The layout of a command word (30_encoding.md R90, R91, R96): its opcode, its must-be-zero bits and its
operands, in any word and in the words the encoder builds. -/

namespace Sys2Proof

open Sys2Proof.Laws

/-! ### Fixed bits -/

@[simp] theorem opField_wordF0 (op : Byte) : opField (wordF0 op) = op := BitVec.extractLsb'_append_eq_right

theorem and_opcodeBits (w : Word) : w &&& 0xFF#32 = wordF0 (opField w) := by
  apply BitVec.eq_of_getLsbD_eq
  intro i hi
  simp only [wordF0, opField, BitVec.getLsbD_and, BitVec.getLsbD_append, BitVec.getLsbD_extractLsb']
  interval_cases i <;> simp

/-- Masking keeps the opcode when the mask has all its bits. -/
theorem opField_and {m : Word} (h : opField m = BitVec.allOnes 8) (w : Word) : opField (w &&& m) = opField w := by
  calc opField (w &&& m)
      = opField w &&& opField m := BitVec.extractLsb'_and
    _ = opField w := by rw [h, BitVec.and_allOnes]

/-- The opcode is no must-be-zero bit. -/
@[simp] theorem wordF0_and_mustBeZero (op : Byte) (f : Format) : wordF0 op &&& f.mustBeZero = 0#32 := by
  have h : 0xFF#32 &&& f.mustBeZero = 0#32 := by cases f <;> rfl
  rw [← opField_wordF0 op, ← and_opcodeBits, BitVec.and_assoc, h, BitVec.and_zero]

/-- A format's mask fixes the opcode and the must-be-zero bits, and nothing else (R91, R93). -/
theorem and_mask_eq_iff (f : Format) (w : Word) (op : Byte) :
    w &&& f.mask = wordF0 op ↔ opField w = op ∧ w &&& f.mustBeZero = 0#32 := by
  constructor
  · intro h
    have hop : opField f.mask = BitVec.allOnes 8 := by cases f <;> rfl
    have hm : f.mask &&& f.mustBeZero = f.mustBeZero := by cases f <;> rfl
    constructor
    · rw [← opField_and hop, h, opField_wordF0]
    · rw [← hm, ← BitVec.and_assoc, h, wordF0_and_mustBeZero]
  · rintro ⟨rfl, h⟩
    have hmask : f.mask = f.mustBeZero ||| 0xFF#32 := by cases f <;> rfl
    rw [hmask, BitVec.and_or_distrib_left, h, BitVec.zero_or, and_opcodeBits]

/-- Clearing must-be-zero bits that are 0 already changes nothing. -/
theorem and_not_mustBeZero_of_zero {f : Format} {w : Word} (h : w &&& f.mustBeZero = 0#32) :
    w &&& ~~~f.mustBeZero = w := by
  calc w &&& ~~~f.mustBeZero
      = w &&& (f.mustBeZero ||| ~~~f.mustBeZero) := by rw [BitVec.and_or_distrib_left, h, BitVec.zero_or]
    _ = w := by rw [BitVec.or_not_self, BitVec.and_allOnes]

/-! ### The encoder's words -/

theorem wordFA_fixed (op a : Byte) : opField (wordFA op a) = op ∧ wordFA op a &&& Format.mustBeZero .FA = 0#32 :=
  (and_mask_eq_iff .FA _ _).1 (FixedBits.fa_matches op a)

theorem wordFAB_fixed (op a b : Byte) :
    opField (wordFAB op a b) = op ∧ wordFAB op a b &&& Format.mustBeZero .FAB = 0#32 :=
  (and_mask_eq_iff .FAB _ _).1 (FixedBits.fab_matches op a b)

theorem wordFAB1_fixed (op : Byte) (idx : BitVec 9) :
    opField (wordFAB1 op idx) = op ∧ wordFAB1 op idx &&& Format.mustBeZero .FAB1 = 0#32 :=
  (and_mask_eq_iff .FAB1 _ _).1 (FixedBits.fab1_matches op idx)

@[simp] theorem aField_wordFA (op a : Byte) : aField (wordFA op a) = a := by
  rw [aField, wordFA, BitVec.extractLsb'_append_eq_of_le (by decide), BitVec.extractLsb'_append_eq_right]

@[simp] theorem aField_wordFAB (op a b : Byte) : aField (wordFAB op a b) = a := by
  rw [aField, wordFAB, BitVec.extractLsb'_append_eq_of_le (by decide), BitVec.extractLsb'_append_eq_right]

@[simp] theorem bField_wordFAB (op a b : Byte) : bField (wordFAB op a b) = b := by
  rw [bField, wordFAB, BitVec.extractLsb'_append_eq_of_le (by decide), BitVec.extractLsb'_append_eq_of_le (by decide),
    BitVec.extractLsb'_append_eq_right]

@[simp] theorem idxField_wordFAB1 (op : Byte) (idx : BitVec 9) : idxField (wordFAB1 op idx) = idx := by
  rw [idxField, wordFAB1, BitVec.extractLsb'_append_eq_of_le (by decide), BitVec.extractLsb'_append_eq_right]

/-! ### Any word, put together again from the fields its format reads -/

section
variable {w : Word} {op : Byte} (h : opField w = op)
include h

theorem wordF0_fields : wordF0 op = w &&& ~~~Format.mustBeZero .F0 := by
  subst h
  exact (and_opcodeBits w).symm

theorem wordFA_fields : wordFA op (aField w) = w &&& ~~~Format.mustBeZero .FA := by
  subst h
  apply BitVec.eq_of_getLsbD_eq
  intro i hi
  simp only [wordFA, opField, aField, Format.mustBeZero, BitVec.getLsbD_and, BitVec.getLsbD_append,
    BitVec.getLsbD_extractLsb']
  interval_cases i <;> simp

theorem wordFAB_fields : wordFAB op (aField w) (bField w) = w &&& ~~~Format.mustBeZero .FAB := by
  subst h
  apply BitVec.eq_of_getLsbD_eq
  intro i hi
  simp only [wordFAB, opField, aField, bField, Format.mustBeZero, BitVec.getLsbD_and, BitVec.getLsbD_append,
    BitVec.getLsbD_extractLsb']
  interval_cases i <;> simp

theorem wordFAB1_fields : wordFAB1 op (idxField w) = w &&& ~~~Format.mustBeZero .FAB1 := by
  subst h
  apply BitVec.eq_of_getLsbD_eq
  intro i hi
  simp only [wordFAB1, opField, idxField, Format.mustBeZero, BitVec.getLsbD_and, BitVec.getLsbD_append,
    BitVec.getLsbD_extractLsb']
  interval_cases i <;> simp

end

end Sys2Proof
end

section
/-! SUPPORT. What the decoder answers, said once (`decode_cases`): an assigned opcode gives the command of its row with
the word's fields as operands, any other opcode gives none (30_encoding.md R92 to R94). -/

namespace Sys2Proof

/-! ### Rows of the opcode map -/

/-- The format of a command's row (R92). -/
def Instr.rowFormat : Instr → Format
  | .setver _ | .gflog _ => .FA
  | .gfmul _ _ | .gfgen _ _ | .rsenc _ _ => .FAB
  | .gfexp _ => .FAB1
  | _ => .F0

/-- A command's row of the opcode map (R92). -/
def Instr.row (i : Instr) : OpcodeRow := ⟨i.mnemonic, opField (encode i), i.rowFormat⟩

theorem Instr.row_mem (i : Instr) : i.row ∈ opcodeMap := by
  cases i with
  | setver a | gflog a => simp [row, encode, wordFA_fixed, mnemonic, rowFormat, opcodeMap]
  | gfmul a b | gfgen a b | rsenc a b => simp [row, encode, wordFAB_fixed, mnemonic, rowFormat, opcodeMap]
  | gfexp idx => simp [row, encode, wordFAB1_fixed, mnemonic, rowFormat, opcodeMap]
  | _ => decide

theorem encode_and_mustBeZero (i : Instr) : encode i &&& i.rowFormat.mustBeZero = 0#32 := by
  cases i with
  | setver a | gflog a => exact (wordFA_fixed _ a).2
  | gfmul a b | gfgen a b | rsenc a b => exact (wordFAB_fixed _ a b).2
  | gfexp idx => exact (wordFAB1_fixed _ idx).2
  | _ => exact wordF0_and_mustBeZero _ .F0

/-- A word that is a command's up to its must-be-zero bits has the opcode of the command's row. -/
theorem Instr.row_op_of_encode {i : Instr} {w : Word} (h : encode i = w &&& ~~~i.rowFormat.mustBeZero) :
    i.row.op = opField w := by
  have hm : opField (~~~i.rowFormat.mustBeZero) = BitVec.allOnes 8 := by cases i.rowFormat <;> rfl
  exact (congrArg opField h).trans (opField_and hm w)

theorem eq_of_op_eq {r r' : OpcodeRow} (hr : r ∈ opcodeMap) (hr' : r' ∈ opcodeMap) (h : r.op = r'.op) : r = r' :=
  List.inj_on_of_nodup_map (f := OpcodeRow.op) (by decide) hr hr' h

theorem eq_of_mnemonic_eq {r r' : OpcodeRow} (hr : r ∈ opcodeMap) (hr' : r' ∈ opcodeMap)
    (h : r.mnemonic = r'.mnemonic) : r = r' :=
  List.inj_on_of_nodup_map (f := OpcodeRow.mnemonic) (by decide) hr hr' h

theorem OpcodeRow.matches_iff_mask (r : OpcodeRow) (w : Word) :
    r.matches w = true ↔ w &&& r.format.mask = r.pattern := beq_iff_eq

theorem OpcodeRow.matches_iff (r : OpcodeRow) (w : Word) :
    r.matches w = true ↔ opField w = r.op ∧ w &&& r.format.mustBeZero = 0#32 :=
  (r.matches_iff_mask w).trans (and_mask_eq_iff r.format w r.op)

theorem Instr.row_matches_encode (i : Instr) : i.row.matches (encode i) = true :=
  (i.row.matches_iff _).2 ⟨rfl, encode_and_mustBeZero i⟩

/-- The ranges of unassigned opcodes (R94). -/
def UnassignedOpcode (op : Nat) : Prop :=
  (0x04 ≤ op ∧ op ≤ 0x0F) ∨ (0x12 ≤ op ∧ op ≤ 0x1F) ∨ (0x21 ≤ op ∧ op ≤ 0x2F) ∨
    (0x35 ≤ op ∧ op ≤ 0x3F) ∨ (0x46 ≤ op ∧ op ≤ 0x4F) ∨ (0x51 ≤ op ∧ op ≤ 0x5F) ∨ 0x61 ≤ op

/-- The ranges of R94 are the opcodes no row has. -/
theorem forall_op_ne_iff (op : Byte) : (∀ r ∈ opcodeMap, r.op ≠ op) ↔ UnassignedOpcode op.toNat := by
  unfold UnassignedOpcode
  revert op
  decide

/-! ### The decoder -/

theorem decodeAs_ok_iff {f : Format} {w : Word} {i j : Instr} :
    decodeAs f w i = .ok j ↔ w &&& f.mustBeZero = 0#32 ∧ i = j := by
  rw [decodeAs]
  split <;> simp [*]

theorem decodeAs_error_iff {f : Format} {w : Word} {i : Instr} :
    (∃ e, decodeAs f w i = .error e) ↔ w &&& f.mustBeZero ≠ 0#32 := by
  rw [decodeAs]
  split <;> simp [*]

/-- Every way a word can decode: its opcode is assigned and its fields are those of a command's word, or its opcode is
no row's. -/
theorem decode_cases (w : Word) :
    (∃ f i, decode w = decodeAs f w i ∧ i.rowFormat = f ∧ encode i = w &&& ~~~f.mustBeZero) ∨
    (decode w = .error .unassignedOpcode ∧ ∀ r ∈ opcodeMap, r.op ≠ opField w) := by
  rw [decode]
  split
  -- format FA: SETVER, GFLOG
  case h_6 _ h | h_10 _ h => exact .inl ⟨_, _, rfl, rfl, wordFA_fields (BitVec.eq_of_toNat_eq h)⟩
  -- format FAB: GFMUL, GFGEN, RSENC
  case h_8 _ h | h_11 _ h | h_12 _ h => exact .inl ⟨_, _, rfl, rfl, wordFAB_fields (BitVec.eq_of_toNat_eq h)⟩
  -- format FAB1: GFEXP
  case h_9 _ h => exact .inl ⟨_, _, rfl, rfl, wordFAB1_fields (BitVec.eq_of_toNat_eq h)⟩
  -- no row's opcode
  case h_21 =>
    refine .inr ⟨rfl, (forall_op_ne_iff _).2 ?_⟩
    simp only [imp_false] at *
    rw [UnassignedOpcode]
    omega
  -- format F0: every other row
  all_goals
    next h => exact .inl ⟨_, _, rfl, rfl, wordF0_fields (BitVec.eq_of_toNat_eq h)⟩

/-- Decoding inverts encoding. -/
theorem decode_encode (i : Instr) : decode (encode i) = .ok i := by
  cases i with
  | setver a | gflog a => simp [encode, decode, decodeAs, wordFA_fixed]
  | gfmul a b | gfgen a b | rsenc a b => simp [encode, decode, decodeAs, wordFAB_fixed]
  | gfexp idx => simp [encode, decode, decodeAs, wordFAB1_fixed]
  | _ => rfl

/-- A word that decodes to a command is the command's word. -/
theorem eq_encode_of_decode {w : Word} {i : Instr} (h : decode w = .ok i) : w = encode i := by
  rcases decode_cases w with ⟨f, j, hd, -, he⟩ | ⟨hd, -⟩ <;> rw [hd] at h
  · obtain ⟨hz, rfl⟩ := decodeAs_ok_iff.1 h
    rw [he, and_not_mustBeZero_of_zero hz]
  · cases h

/-- A word whose opcode is a row's is decoded by that row: to a command of its mnemonic, if the must-be-zero bits of its
format are 0 (R93). -/
theorem decode_of_op_eq {r : OpcodeRow} (hr : r ∈ opcodeMap) {w : Word} (h : r.op = opField w) :
    ∃ i, i.mnemonic = r.mnemonic ∧ decode w = decodeAs r.format w i := by
  rcases decode_cases w with ⟨f, i, hd, rfl, he⟩ | ⟨-, hne⟩
  · have hrow : i.row = r := eq_of_op_eq i.row_mem hr ((Instr.row_op_of_encode he).trans h.symm)
    exact ⟨i, congrArg OpcodeRow.mnemonic hrow, hrow ▸ hd⟩
  · exact absurd h (hne r hr)

theorem matches_iff_decode {r : OpcodeRow} (hr : r ∈ opcodeMap) (w : Word) :
    r.matches w = true ↔ ∃ i, decode w = .ok i ∧ i.mnemonic = r.mnemonic := by
  constructor
  · intro h
    obtain ⟨hop, hz⟩ := (r.matches_iff w).1 h
    obtain ⟨i, hm, hd⟩ := decode_of_op_eq hr hop.symm
    exact ⟨i, hd.trans (decodeAs_ok_iff.2 ⟨hz, rfl⟩), hm⟩
  · rintro ⟨i, hd, hm⟩
    obtain rfl : i.row = r := eq_of_mnemonic_eq i.row_mem hr hm
    rw [eq_encode_of_decode hd]
    exact i.row_matches_encode

/-- The two cases of an illegal word (R94). -/
theorem decode_error_iff (w : Word) :
    (∃ e, decode w = .error e) ↔ (∀ r ∈ opcodeMap, r.op ≠ opField w) ∨
      ∃ r ∈ opcodeMap, r.op = opField w ∧ w &&& r.format.mustBeZero ≠ 0#32 := by
  rcases decode_cases w with ⟨f, i, hd, rfl, he⟩ | ⟨hd, hne⟩
  · have hop := Instr.row_op_of_encode he
    rw [hd, decodeAs_error_iff]
    constructor
    · exact fun hz => .inr ⟨i.row, i.row_mem, hop, hz⟩
    · rintro (hne | ⟨r, hr, hop', hz⟩)
      · exact absurd hop (hne _ i.row_mem)
      · obtain rfl : r = i.row := eq_of_op_eq hr i.row_mem (hop'.trans hop.symm)
        exact hz
  · exact ⟨fun _ => .inl hne, fun _ => ⟨_, hd⟩⟩

end Sys2Proof
end

section
/-! SUPPORT. What the core's turn does with an illegal word (30_encoding.md R94). -/

namespace Sys2Proof.Machine

open Sys2Proof.Claims

/-- An illegal word completes with ILLEGAL_CMD and no other effect (R94). -/
theorem coreTurn_of_illegal {s : State} {w : Word} {e : DecodeError} (hs : s.status.state = .generating)
    (hw : s.curCmd = some w) (hd : decode w = .error e) : coreTurn s = .next (completedErr s .illegalCmd) := by
  rcases coreTurn_cases s with ⟨h, -⟩ | ⟨-, h, -⟩ | ⟨-, -, -, -, -, h⟩ | ⟨w', i, -, hw', hd', -⟩
  · exact absurd hs h
  · cases h.symm.trans hw
  · exact h
  · obtain rfl : w' = w := Option.some.inj (hw'.symm.trans hw)
    cases hd.symm.trans hd'

end Sys2Proof.Machine
end

section
/-! The statements of the encoding's family, settled. -/

namespace Sys2Proof.Machine

open Sys2Proof.Claims

/-- Settles O2, by the decoder's two directions. -/
theorem decodeIsTheInverseOfEncode : Obligations.DecodeIsTheInverseOfEncode := by
  unfold Obligations.DecodeIsTheInverseOfEncode
  exact fun w i => ⟨eq_encode_of_decode, fun h => h ▸ decode_encode i⟩

/-- Settles O3: a match fixes the opcode, and the opcode fixes the row. -/
theorem decodeSelectsTheMatchingRow : Obligations.DecodeSelectsTheMatchingRow := by
  unfold Obligations.DecodeSelectsTheMatchingRow
  refine fun w => ⟨fun r hr => ⟨r.matches_iff w, r.matches_iff_mask w, matches_iff_decode hr w⟩, ?_⟩
  intro r hr r' hr' h h'
  have hop := ((r.matches_iff w).1 h).1
  have hop' := ((r'.matches_iff w).1 h').1
  exact eq_of_op_eq hr hr' (hop.symm.trans hop')

/-- Settles O4: the decoder's two ways to refuse, acceptance as a register write, and the core's turn. -/
theorem illegalWordsCompleteWithIllegalCmd : Obligations.IllegalWordsCompleteWithIllegalCmd := by
  unfold Obligations.IllegalWordsCompleteWithIllegalCmd
  refine fun w => ⟨?_, fun e s hd => ⟨fun hs => ?_, fun hs hw => coreTurn_of_illegal hs hw hd⟩⟩
  · exact (decode_error_iff w).trans (or_congr_left (forall_op_ne_iff _))
  · exact ⟨_, hostAccess_writeRegister hs rfl (by decide) w⟩

/-- Settles O1: each word is the encoder's. -/
theorem wordsOfEachFamilyDecode : Obligations.WordsOfEachFamilyDecode :=
  ⟨decode_encode .nop, decode_encode .generate, decode_encode .selver, decode_encode (.setver 5#8),
    decode_encode .bitstream, decode_encode (.gfmul 0x53#8 0xCA#8), decode_encode (.gfexp 300#9),
    decode_encode (.gflog 0x1D#8), decode_encode (.gfgen 26#8 25#8), decode_encode (.rsenc 10#8 16#8),
    decode_encode .finder, decode_encode .place, decode_encode .mask⟩

end Sys2Proof.Machine
end

section
/-! SUPPORT. Version selection (41_version.md R120 to R124): the model's table and operand check against the rule's
rows, what SELVER and SETVER answer, and the lengths that overflow the selected version. -/

namespace Sys2Proof.Machine

open Sys2Proof.Claims

/-! ### The table and the operand -/

theorem ofVersion_eq_symRow {v : Nat} (h : v ∈ settableVersions) : SymInfo.ofVersion v = symRow v := by
  revert v
  decide

theorem selectVersion_eq_versionFor (n : Nat) : selectVersion n = versionFor n := rfl

/-- SETVER accepts the versions that can be set and no other operand (R123). -/
theorem versionOperandOk_iff (a : Byte) : versionOperandOk a = true ↔ operand a ∈ settableVersions := by
  refine ⟨operand_mem_of_versionOperandOk, fun h => ?_⟩
  simp only [settableVersions, List.mem_cons, List.not_mem_nil, or_false] at h
  simp only [versionOperandOk, Bool.or_eq_true, beq_iff_eq, Bool.and_eq_true, decide_eq_true_eq]
  omega

/-! ### The two commands -/

/-- A command that sets the version and raises nothing (R122, R282). -/
theorem complete_done_setSyminfo (s : State) {v : Nat} (h : v ∈ settableVersions) :
    (done (s.setSyminfo v)).complete = { completedOk s with syminfo := symRow v } := by
  rw [← ofVersion_eq_symRow h]
  rfl

theorem exec_selver (s : State) :
    exec .selver s = .next { completedOk s with syminfo := symRow (versionFor s.len.toNat) } := by
  rw [← selectVersion_eq_versionFor, ← complete_done_setSyminfo s (selectVersion_mem _)]
  rfl

theorem exec_setver (a : Byte) (s : State) : exec (.setver a) s = .next (setverBody a s).complete := rfl

theorem exec_setver_of_mem {a : Byte} (h : a.toNat ∈ settableVersions) (s : State) :
    exec (.setver a) s = .next { completedOk s with syminfo := symRow a.toNat } := by
  rw [exec_setver, setverBody, if_pos ((versionOperandOk_iff a).2 h)]
  exact congrArg _ (complete_done_setSyminfo s h)

theorem exec_setver_of_not_mem {a : Byte} (h : a.toNat ∉ settableVersions) (s : State) :
    exec (.setver a) s = .next (completedErr s .badVersion) := by
  rw [exec_setver, setverBody, if_neg (mt (versionOperandOk_iff a).1 h)]
  rfl

/-- Format FA's word is OP + 256*A (R98). -/
theorem ofNat_eq_wordFA (op a : Byte) : BitVec.ofNat 32 (op.toNat + 256 * a.toNat) = wordFA op a := by
  have hop := op.isLt
  have ha := a.isLt
  apply BitVec.eq_of_toNat_eq
  simp only [wordFA, BitVec.toNat_append, BitVec.toNat_ofNat]
  rw [← Nat.shiftLeft_add_eq_or_of_lt hop, ← Nat.shiftLeft_add_eq_or_of_lt ha, Nat.shiftLeft_eq, Nat.shiftLeft_eq]
  omega

/-! ### The lengths that fit -/

/-- The selected version by the thresholds (R121). -/
theorem selectVersion_cases (n : Nat) :
    n = 0 ∧ selectVersion n = 0 ∨ 0 < n ∧ n ≤ 20 ∧ selectVersion n = 2 ∨ 20 < n ∧ n ≤ 32 ∧ selectVersion n = 3 ∨
    32 < n ∧ n ≤ 46 ∧ selectVersion n = 4 ∨ 46 < n ∧ selectVersion n = 5 := by
  generalize hv : selectVersion n = v
  rw [selectVersion] at hv
  split_ifs at hv <;> omega

theorem selectVersion_eq_five_iff (n : Nat) : selectVersion n = 5 ↔ 46 < n := by
  have := selectVersion_cases n
  omega

/-- Header and payload of a nonempty input overflow the selected version from 107 bytes on (R124). -/
theorem selected_overflows_iff {n : Nat} (h : n ≠ 0) :
    (VT (selectVersion n)).capBits < 12 + 8 * n ↔ 107 ≤ n := by
  rcases selectVersion_cases n with ⟨h0, -⟩ | ⟨-, hn, hv⟩ | ⟨-, hn, hv⟩ | ⟨-, hn, hv⟩ | ⟨hn, hv⟩
  · exact absurd h0 h
  all_goals
    simp only [hv, VT]
    omega

end Sys2Proof.Machine
end

section
/-! The statements of the version selection's family, settled. -/

namespace Sys2Proof.Machine

open Sys2Proof.Claims

/-- Settles O12: the model's selection is the rule's thresholds, and its table has the rule's rows. -/
theorem selverSelectsTheVersionFromLen : Obligations.SelverSelectsTheVersionFromLen :=
  ⟨exec_selver, decode_encode .selver, by decide⟩

/-- Settles O13: the selected version overflows from 107 bytes on, far above version 5's threshold. -/
theorem selectedVersionFitsUpTo106Bytes : Obligations.SelectedVersionFitsUpTo106Bytes := by
  unfold Obligations.SelectedVersionFitsUpTo106Bytes
  constructor
  · intro n h1 h46
    have hfits := mt (selected_overflows_iff (by omega : n ≠ 0)).1 (by omega)
    have hnot5 := mt (selectVersion_eq_five_iff n).1 (by omega)
    exact ⟨Nat.le_of_not_lt hfits, hnot5⟩
  · intro n h1 _
    have hover := selected_overflows_iff (by omega : n ≠ 0)
    exact ⟨hover, fun h => (selectVersion_eq_five_iff n).2 (by have := hover.1 h; omega)⟩

/-- Settles O14: the operand check admits exactly the rows of the version table and 0. -/
theorem setverSetsOrRejectsTheVersion : Obligations.SetverSetsOrRejectsTheVersion := by
  unfold Obligations.SetverSetsOrRejectsTheVersion
  refine ⟨fun s a h => exec_setver_of_mem h s, fun s a h => exec_setver_of_not_mem ?_ s, fun a => ?_, by decide⟩
  · simp only [settableVersions, List.mem_cons, List.not_mem_nil, or_false]
    omega
  · exact (congrArg decode (ofNat_eq_wordFA 0x11#8 a)).trans (decode_encode (.setver a))

end Sys2Proof.Machine
end

section
/-! SUPPORT. The bit stream as bytes (42_bitstream.md R140 to R143). Mode and count take 12 bits, so every codeword
of the stream straddles two bytes of its source; the stream for any length, clipped or not, is the first bits of
those codewords and the pad. -/

namespace Sys2Proof.Machine

/-! ### The bits of a value -/

@[simp] theorem msbFirst_length (val w : Nat) : (msbFirst val w).length = w := by simp [msbFirst]

/-- Only the w low bits of a value are emitted. -/
theorem msbFirst_congr {a b w : Nat} (h : a % 2 ^ w = b % 2 ^ w) : msbFirst a w = msbFirst b w := by
  refine List.map_congr_left fun k hk => ?_
  have hlt : w - 1 - k < w := by have := List.mem_range.1 hk; omega
  have hbit := congrArg (·.testBit (w - 1 - k)) h
  simpa [Nat.testBit_mod_two_pow, hlt] using hbit

/-- A value's bits are its high bits, then its low ones. -/
theorem msbFirst_add (val v w : Nat) : msbFirst val (v + w) = msbFirst (val / 2 ^ w) v ++ msbFirst val w := by
  rw [msbFirst, List.range_add, List.map_append, List.map_map]
  congr 1
  · refine List.map_congr_left fun k hk => ?_
    have hk' := List.mem_range.1 hk
    rw [Nat.testBit_div_two_pow]
    congr 1
    omega
  · refine List.map_congr_left fun k _ => ?_
    simp only [Function.comp_apply]
    congr 1
    omega

theorem msbFirst_zero (w : Nat) : msbFirst 0 w = List.replicate w false := by
  simp [msbFirst]

/-- The bits of a codeword, in the order of the stream (00_scope.md R8). -/
def byteBits (b : Byte) : List Bool := msbFirst b.toNat 8

@[simp] theorem byteBits_length (b : Byte) : (byteBits b).length = 8 := msbFirst_length _ _

theorem byteBits_eq_halves (b : Byte) : byteBits b = msbFirst (b.toNat / 16) 4 ++ msbFirst b.toNat 4 :=
  msbFirst_add b.toNat 4 4

@[simp] theorem flatMap_byteBits_length (bytes : List Byte) : (bytes.flatMap byteBits).length = 8 * bytes.length := by
  simp [List.length_flatMap, Nat.mul_comm]

/-- Reading a value's bits back as a number (R8). -/
theorem foldl_msbFirst (val w : Nat) :
    (msbFirst val w).foldl (fun acc bit => 2 * acc + bit.toNat) 0 = val % 2 ^ w := by
  induction w generalizing val with
  | zero => simp [msbFirst, Nat.mod_one]
  | succ w ih =>
    have hlast : msbFirst val 1 = [val.testBit 0] := rfl
    rw [msbFirst_add, hlast, List.foldl_append, ih, List.foldl_cons, List.foldl_nil, Nat.toNat_testBit, pow_one,
      pow_zero, pow_succ', Nat.mod_mul]
    omega

theorem streamByte_byteBits_append_zero (b : Byte) (st : List Bool) : streamByte (byteBits b ++ st) 0 = b := by
  have hbits : (List.range 8).map (fun i => (byteBits b ++ st).getD (8 * 0 + i) false) = byteBits b := by
    refine List.map_congr_left (g := fun i => b.toNat.testBit (7 - i)) fun i hi => ?_
    have hi' := List.mem_range.1 hi
    rw [Nat.mul_zero, Nat.zero_add, List.getD_append _ _ _ _ (by simpa using hi')]
    simp [byteBits, msbFirst, hi']
  have hfold := foldl_msbFirst b.toNat 8
  rw [← byteBits, ← hbits, List.foldl_map] at hfold
  rw [streamByte, hfold, Nat.mod_eq_of_lt b.isLt, BitVec.ofNat_toNat, BitVec.setWidth_eq]

theorem streamByte_byteBits_append_succ (b : Byte) (st : List Bool) (k : Nat) :
    streamByte (byteBits b ++ st) (k + 1) = streamByte st k := by
  have hbit (i : Nat) : (byteBits b ++ st).getD (8 * (k + 1) + i) false = st.getD (8 * k + i) false := by
    rw [List.getD_append_right _ _ _ _ (by simp; omega), byteBits_length]
    congr 1
    omega
  simp only [streamByte, hbit]

/-- The codewords of a stream made of whole bytes are those bytes. -/
theorem streamByte_flatMap_byteBits (bytes : List Byte) {k : Nat} (h : k < bytes.length) :
    streamByte (bytes.flatMap byteBits) k = bytes.getD k 0#8 := by
  induction bytes generalizing k with
  | nil => simp at h
  | cons b bytes ih =>
    rw [List.flatMap_cons]
    cases k with
    | zero => exact streamByte_byteBits_append_zero b _
    | succ k => exact (streamByte_byteBits_append_succ b _ k).trans (ih (by simpa using h))

/-- Clipping a stream of whole bytes at a whole number of bytes. -/
theorem take_flatMap_byteBits (bytes : List Byte) (d : Nat) :
    (bytes.flatMap byteBits).take (8 * d) = (bytes.take d).flatMap byteBits := by
  have happ : bytes.flatMap byteBits = (bytes.take d).flatMap byteBits ++ (bytes.drop d).flatMap byteBits := by
    rw [← List.flatMap_append, List.take_append_drop]
  by_cases hd : d ≤ bytes.length
  · rw [happ, List.take_left' (by simp [hd, Nat.mul_comm])]
  · rw [List.take_of_length_le (by simp; omega), List.take_of_length_le (by omega)]

theorem streamBytes_flatMap_byteBits (bytes : List Byte) :
    streamBytes (8 * bytes.length) (bytes.flatMap byteBits) = bytes := by
  refine List.ext_getElem (by simp) fun k hk _ => ?_
  have hlt : k < bytes.length := by simpa using hk
  simp only [streamBytes, List.getElem_map, List.getElem_range, streamByte_flatMap_byteBits bytes hlt,
    List.getD_eq_getElem _ _ hlt]

/-! ### Emitting -/

/-- Clipping can wait until the bits are appended (R141). -/
theorem emit_take (cap : Nat) (st : List Bool) (val w : Nat) :
    emit cap (st.take cap) val w = (st ++ msbFirst val w).take cap := by
  rw [emit, List.take_append, List.take_append, List.take_take, Nat.min_self, List.length_take]
  congr 2
  omega

/-- Bytes emitted one after the other are appended and then clipped. -/
theorem foldl_emit {α : Type} (cap : Nat) (f : α → Byte) (l : List α) (st : List Bool) :
    l.foldl (fun st x => emit cap st (f x).toNat 8) (st.take cap) =
      (st ++ (l.map f).flatMap byteBits).take cap := by
  induction l generalizing st with
  | nil => simp
  | cons x l ih =>
    rw [List.foldl_cons, emit_take, ih, List.append_assoc]
    rfl

/-- Step 3 (R142) appends the payload's bytes and clips. -/
theorem emitPayload_take (cap : Nat) (st : List Bool) (payload : List Byte) :
    emitPayload cap (st.take cap) payload = (st ++ payload.flatMap byteBits).take cap := by
  have h := foldl_emit cap id payload st
  rwa [List.map_id] at h

/-! ### Half bytes -/

/-- The byte made of the low half of a byte and the high half of the next one. -/
def straddle (a b : Byte) : Byte := (a ++ b).extractLsb' 4 8

theorem straddle_toNat (a b : Byte) : (straddle a b).toNat = 16 * (a.toNat % 16) + b.toNat / 16 := by
  have hb := b.isLt
  simp only [straddle, BitVec.extractLsb'_toNat, BitVec.toNat_append, Nat.shiftRight_eq_div_pow]
  rw [← Nat.shiftLeft_add_eq_or_of_lt hb, Nat.shiftLeft_eq]
  omega

theorem byteBits_straddle (a b : Byte) :
    byteBits (straddle a b) = msbFirst a.toNat 4 ++ msbFirst (b.toNat / 16) 4 := by
  have hb := b.isLt
  rw [byteBits_eq_halves, straddle_toNat]
  exact congrArg₂ _ (msbFirst_congr (by omega)) (msbFirst_congr (by omega))

/-- A half byte `a`, whole bytes, and a zero half byte, cut into bytes. -/
def straddles (a : Byte) (bytes : List Byte) : List Byte := List.zipWith straddle (a :: bytes) (bytes ++ [0#8])

@[simp] theorem straddles_length (a : Byte) (bytes : List Byte) : (straddles a bytes).length = bytes.length + 1 := by
  simp [straddles]

/-- Regrouping the half bytes changes no bit. -/
theorem flatMap_byteBits_straddles (a : Byte) (bytes : List Byte) :
    (straddles a bytes).flatMap byteBits = msbFirst a.toNat 4 ++ bytes.flatMap byteBits ++ msbFirst 0 4 := by
  induction bytes generalizing a with
  | nil => simp [straddles, byteBits_straddle]
  | cons b bytes ih =>
    have hcons : straddles a (b :: bytes) = straddle a b :: straddles b bytes := rfl
    rw [hcons, List.flatMap_cons, ih, byteBits_straddle, List.flatMap_cons, byteBits_eq_halves]
    simp only [List.append_assoc]

theorem straddles_getD_toNat (a : Byte) (bytes : List Byte) {k : Nat} (h : k ≤ bytes.length) :
    ((straddles a bytes).getD k 0#8).toNat =
      16 * (((a :: bytes).getD k 0#8).toNat % 16) + (bytes.getD k 0#8).toNat / 16 := by
  have hk : k < (a :: bytes).length ∧ k < (bytes ++ [0#8]).length := by simp; omega
  have hnext : (bytes ++ [0#8])[k] = bytes.getD k 0#8 := by
    rw [← List.getD_eq_getElem _ 0#8]
    rcases Nat.lt_or_eq_of_le h with h | rfl
    · exact List.getD_append _ _ _ _ h
    · simp
  rw [List.getD_eq_getElem _ _ (by simp; omega)]
  simp only [straddles, List.getElem_zipWith, straddle_toNat, hnext, List.getD_eq_getElem _ _ hk.1]

/-! ### The stream -/

/-- The k-th pad codeword (R142 step 6). -/
def padCodeword (k : Nat) : Byte := BitVec.ofNat 8 (padByte k)

theorem padCodeword_toNat (k : Nat) : (padCodeword k).toNat = padByte k := by
  rw [padCodeword, padByte]
  split <;> rfl

/-- The first `d` codewords for the count `n` and a payload: mode, count, payload and terminator, then the pad
(R143). -/
def codewordsOf (d : Nat) (n : Byte) (payload : List Byte) : List Byte :=
  (straddles 4#8 (n :: payload) ++ (List.range (d - (payload.length + 2))).map padCodeword).take d

theorem codewordsOf_length (d : Nat) (n : Byte) (payload : List Byte) : (codewordsOf d n payload).length = d := by
  simp only [codewordsOf, List.length_take, List.length_append, straddles_length, List.length_cons, List.length_map,
    List.length_range]
  omega

/-- The terminator is zeros, so the clipping alone cuts it to the room left (R142 step 4). -/
theorem emit_zero_min (cap : Nat) (st : List Bool) (w : Nat) :
    emit cap st 0 (min w (cap - st.length)) = emit cap st 0 w := by
  simp only [emit, msbFirst_zero, List.take_append, List.take_replicate]
  congr 2
  omega

/-- Steps 1 to 4 (R142): mode, count, payload and terminator are whole codewords, clipped. -/
theorem emit_terminator (cap : Nat) (n : Byte) (payload : List Byte) :
    emit cap (emitPayload cap (emit cap (emit cap [] 0b0100 4) n.toNat 8) payload) 0 4 =
      ((straddles 4#8 (n :: payload)).flatMap byteBits).take cap := by
  have hheader : emit cap (emit cap [] 0b0100 4) n.toNat 8 = (msbFirst 4 4 ++ byteBits n).take cap :=
    emit_take cap (msbFirst 4 4) n.toNat 8
  rw [hheader, emitPayload_take, emit_take, flatMap_byteBits_straddles, List.flatMap_cons, ← List.append_assoc]
  rfl

/-- Step 6 (R142): after whole codewords the pad fills the capacity with whole codewords. -/
theorem emitPad_take (d : Nat) (bytes : List Byte) :
    emitPad (8 * d) ((bytes.flatMap byteBits).take (8 * d)) =
      ((bytes ++ (List.range (d - bytes.length)).map padCodeword).take d).flatMap byteBits := by
  have hcount : (8 * d - ((bytes.flatMap byteBits).take (8 * d)).length + 7) / 8 = d - bytes.length := by
    rw [List.length_take, flatMap_byteBits_length]
    omega
  have hfold := foldl_emit (8 * d) padCodeword (List.range (d - bytes.length)) (bytes.flatMap byteBits)
  simp only [padCodeword_toNat] at hfold
  rw [emitPad, hcount, hfold, ← List.flatMap_append, take_flatMap_byteBits]

/-- The stream of R142 for any length, clipped or not, is the first codewords of R143's. -/
theorem bitStream_eq (d : Nat) (n : Byte) (payload : List Byte) :
    bitStream (8 * d) n.toNat payload = (codewordsOf d n payload).flatMap byteBits := by
  have hbyte (st : List Bool) (h : st.length % 8 = 0) (hcap : st.length ≤ 8 * d) :
      emit (8 * d) st 0 ((8 - st.length % 8) % 8) = st := by
    simp [emit, h, msbFirst, hcap]
  rw [bitStream]
  simp only [emit_zero_min, emit_terminator]
  rw [hbyte _ (by simp; omega) (by simp), emitPad_take, straddles_length, List.length_cons]
  rfl

theorem streamBytes_bitStream (d : Nat) (n : Byte) (payload : List Byte) :
    streamBytes (8 * d) (bitStream (8 * d) n.toNat payload) = codewordsOf d n payload := by
  have h := streamBytes_flatMap_byteBits (codewordsOf d n payload)
  rwa [codewordsOf_length, ← bitStream_eq] at h

theorem codewordsOf_getD {d k : Nat} (n : Byte) (payload : List Byte) (h : k < d) :
    (codewordsOf d n payload).getD k 0#8 =
      (straddles 4#8 (n :: payload) ++ (List.range (d - (payload.length + 2))).map padCodeword).getD k 0#8 := by
  simp only [codewordsOf, List.getD_eq_getElem?_getD, List.getElem?_take_of_lt h]

/-- A codeword up to the terminator's joins the half bytes on its two sides. -/
theorem codewordsOf_getD_straddle {d k : Nat} (n : Byte) (payload : List Byte) (hd : k < d)
    (hk : k ≤ payload.length + 1) : ((codewordsOf d n payload).getD k 0#8).toNat =
      16 * (((4#8 :: n :: payload).getD k 0#8).toNat % 16) + ((n :: payload).getD k 0#8).toNat / 16 := by
  rw [codewordsOf_getD n payload hd, List.getD_append _ _ _ _ (by simp; omega)]
  exact straddles_getD_toNat 4#8 (n :: payload) (by simpa using hk)

/-- The codewords after the terminator's are the pad. -/
theorem codewordsOf_getD_pad {d k : Nat} (n : Byte) (payload : List Byte) (hd : k < d) (hk : payload.length + 2 ≤ k) :
    ((codewordsOf d n payload).getD k 0#8).toNat = padByte (k - (payload.length + 2)) := by
  have hlen : (straddles 4#8 (n :: payload)).length = payload.length + 2 := by simp
  rw [codewordsOf_getD n payload hd, List.getD_append_right _ _ _ _ (by omega), hlen, List.getD_eq_getElem _ _
    (by simp; omega), List.getElem_map, List.getElem_range, padCodeword_toNat]

end Sys2Proof.Machine
end

section
/-! SUPPORT. BITSTREAM's codewords against the rule's closed forms (42_bitstream.md R142, R143), and what BITSTREAM
leaves when it raises nothing. -/

namespace Sys2Proof.Machine

open Sys2Proof.Claims

/-! ### The closed forms -/

@[simp] theorem State.payload_length (s : State) : s.payload.length = s.len.toNat := by simp [State.payload]

theorem State.payload_getD_of_lt {s : State} {i : Nat} (h : i < s.len.toNat) :
    s.payload.getD i 0#8 = s.mem.inbuf i := by
  simp [State.payload, h]

theorem State.payload_getD_of_le {s : State} {i : Nat} (h : s.len.toNat ≤ i) : s.payload.getD i 0#8 = 0#8 :=
  List.getD_eq_default _ _ (by rwa [State.payload_length])

/-- The codewords up to the terminator's are R143's. -/
theorem codewordsOf_eq_streamClosed_straddle (s : State) {d j : Nat} (h : j < d) (hj : j ≤ s.len.toNat + 1) :
    ((codewordsOf d s.len s.payload).getD j 0#8).toNat =
      streamClosed s.len.toNat (fun i => (s.mem.inbuf i).toNat) j := by
  rw [codewordsOf_getD_straddle _ _ h (by rwa [State.payload_length])]
  match j with
  | 0 => rfl
  | 1 =>
    simp only [List.getD_cons_succ, List.getD_cons_zero, streamClosed, one_ne_zero, if_false, if_true]
    rcases Nat.eq_zero_or_pos s.len.toNat with hn | hn
    · rw [State.payload_getD_of_le (by omega), if_pos hn]
      rfl
    · rw [State.payload_getD_of_lt hn, if_neg (by omega)]
  | i + 2 =>
    simp only [List.getD_cons_succ, streamClosed, if_neg (by omega : ¬ i + 2 = 0), if_neg (by omega : ¬ i + 2 = 1)]
    rw [State.payload_getD_of_lt (by omega)]
    rcases Nat.lt_or_ge (i + 1) s.len.toNat with hi | hi
    · rw [State.payload_getD_of_lt hi, if_pos (by omega)]
      rfl
    · have hn : s.len.toNat = i + 1 := by omega
      rw [State.payload_getD_of_le hi, if_neg (by omega), if_pos (by omega), hn]
      rfl

/-- Every codeword is R143's, however many of them are kept. -/
theorem codewordsOf_eq_streamClosed (s : State) {d j : Nat} (h : j < d) :
    ((codewordsOf d s.len s.payload).getD j 0#8).toNat =
      streamClosed s.len.toNat (fun i => (s.mem.inbuf i).toNat) j := by
  by_cases hj : j ≤ s.len.toNat + 1
  · exact codewordsOf_eq_streamClosed_straddle s h hj
  · rw [codewordsOf_getD_pad _ _ h (by rw [State.payload_length]; omega), State.payload_length]
    rw [streamClosed, if_neg (by omega), if_neg (by omega), if_neg (by omega), if_neg (by omega), Nat.sub_sub, padByte]

/-- Without terminator and pad the two closed forms agree. -/
theorem streamClipped_eq_streamClosed {n j : Nat} (b : Nat → Nat) (h : j ≤ n) :
    streamClipped n b j = streamClosed n b j := by
  simp only [streamClipped, streamClosed]
  split_ifs <;> omega

/-! ### The command -/

theorem VT_capBits : ∀ v : Nat, (VT v).capBits = capacity v
  | 0 | 1 | 2 | 3 | 4 | 5 | _ + 6 => rfl

/-- Every capacity is a whole number of codewords (R120). -/
theorem capacity_eq_codewords (v : Nat) : capacity v = 8 * (capacity v / 8) := by
  unfold capacity
  split <;> rfl

theorem tooLarge_eq_false_iff (s : State) (v : Nat) :
    tooLarge s v = false ↔ s.params.oversize = .truncate ∨ 12 + 8 * s.len.toNat ≤ capacity v := by
  rw [tooLarge, overflows, VT_capBits]
  cases s.params.oversize <;> simp

/-- BITSTREAM without an error writes the codewords of the current version and nothing else (R142). -/
theorem exec_bitstream_of_not_tooLarge {s : State} (hv : s.syminfo.version ≠ 0#8)
    (ht : tooLarge s s.syminfo.version.toNat = false) :
    ∃ t, exec .bitstream s = .next t ∧ OnlyMemory s t ∧
      (∀ j, j < capacity s.syminfo.version.toNat / 8 → (t.mem.cwbuf j).toNat =
        streamClosed s.len.toNat (fun i => (s.mem.inbuf i).toNat) j) ∧
      (∀ a, (a < 0x200 ∨ 0x200 + capacity s.syminfo.version.toNat / 8 ≤ a) → t.mem.read a = s.mem.read a) := by
  generalize hd : capacity s.syminfo.version.toNat / 8 = d
  have hexec : exec .bitstream s = .next (bitstreamBody s).complete := rfl
  have hmem : (bitstreamBody s).complete.mem = s.mem.setCwbuf 0 (codewordsOf d s.len s.payload) := by
    rw [bitstreamBody_ok hv ht, CmdResult.complete_mem, done_state, writeStream_mem, VT_capBits,
      capacity_eq_codewords, hd, streamBytes_bitStream]
  refine ⟨_, hexec, ?_, fun j hj => ?_, fun a ha => ?_⟩
  · rw [bitstreamBody_ok hv ht]
    rfl
  · rw [hmem, Memory.cwbuf_setCwbuf, if_pos (by rw [codewordsOf_length]; omega), Nat.sub_zero]
    exact codewordsOf_eq_streamClosed s hj
  · rw [hmem]
    exact Memory.read_setCwbuf_out _ _ _ (by rw [codewordsOf_length]; omega)

end Sys2Proof.Machine
end

section
/-! The statements of the bit stream's family, settled. -/

namespace Sys2Proof.Machine

open Sys2Proof.Claims

/-- Settles O26: an input that fits is not too large, and the codewords are the closed form's. -/
theorem bitstreamWritesTheClosedForm : Obligations.BitstreamWritesTheClosedForm := by
  unfold Obligations.BitstreamWritesTheClosedForm
  intro s hv hfit
  exact exec_bitstream_of_not_tooLarge hv.2 ((tooLarge_eq_false_iff s _).2 (.inr hfit))

/-- Settles O27: TRUNCATE raises nothing, and an overflowing input's codewords end inside the payload, where the two
closed forms agree. -/
theorem bitstreamClipsUnderTruncate : Obligations.BitstreamClipsUnderTruncate := by
  unfold Obligations.BitstreamClipsUnderTruncate
  intro s hv hover htrunc
  obtain ⟨t, hexec, honly, hcw, hframe⟩ :=
    exec_bitstream_of_not_tooLarge hv.2 ((tooLarge_eq_false_iff s _).2 (.inl htrunc))
  refine ⟨t, hexec, honly, fun j hj => ?_, hframe⟩
  rw [streamClipped_eq_streamClosed _ (by omega), hcw j hj]

end Sys2Proof.Machine
end

section
/-! SUPPORT. GF(256) from its polynomial (43_gf_rs.md R160, R161): multiplication is additive in each factor, every byte
is a sum of the basis 1, α, ..., α^7, and α^i α^j = α^(i+j); so every law need only be checked on powers of α. -/

namespace Sys2Proof.Machine

open Sys2Proof.Claims

/-! ### Additivity -/

/-- A fold over steps that are additive in what is folded is additive. -/
theorem foldl_xor {f g h : Nat → Nat → Nat} (hf : ∀ x y i, f (x ^^^ y) i = g x i ^^^ h y i) (l : List Nat) (x y : Nat) :
    l.foldl f (x ^^^ y) = l.foldl g x ^^^ l.foldl h y := by
  induction l generalizing x y with
  | nil => rfl
  | cons i l ih => rw [List.foldl_cons, hf, ih, List.foldl_cons, List.foldl_cons]

theorem reduce11D_xor (p q : Nat) : reduce11D (p ^^^ q) = reduce11D p ^^^ reduce11D q := by
  refine foldl_xor (fun x y i => ?_) _ p q
  rw [Nat.testBit_xor]
  cases x.testBit (14 - i) <;> cases y.testBit (14 - i) <;> simp [Nat.xor_assoc, Nat.xor_comm, Nat.xor_left_comm]

theorem carrylessProduct_xor_left (a b c : Nat) :
    carrylessProduct (a ^^^ b) c = carrylessProduct a c ^^^ carrylessProduct b c := by
  refine foldl_xor (fun x y i => ?_) _ 0 0
  cases c.testBit i <;> simp [Nat.shiftLeft_xor_distrib, Nat.xor_comm, Nat.xor_left_comm]

theorem carrylessProduct_xor_right (a b c : Nat) :
    carrylessProduct a (b ^^^ c) = carrylessProduct a b ^^^ carrylessProduct a c := by
  refine foldl_xor (fun x y i => ?_) _ 0 0
  rw [Nat.testBit_xor]
  cases b.testBit i <;> cases c.testBit i <;> simp [Nat.xor_comm, Nat.xor_left_comm]

theorem fieldMul_xor_left (a b c : Byte) : fieldMul (a ^^^ b) c = fieldMul a c ^^^ fieldMul b c := by
  simp only [fieldMul, BitVec.toNat_xor, carrylessProduct_xor_left, reduce11D_xor, BitVec.ofNat_xor]

theorem fieldMul_xor_right (a b c : Byte) : fieldMul a (b ^^^ c) = fieldMul a b ^^^ fieldMul a c := by
  simp only [fieldMul, BitVec.toNat_xor, carrylessProduct_xor_right, reduce11D_xor, BitVec.ofNat_xor]

theorem xor_xor_xor_comm (a b c d : Byte) : (a ^^^ b) ^^^ (c ^^^ d) = (a ^^^ c) ^^^ (b ^^^ d) := by ac_rfl

theorem timesAlpha_xor (a b : Byte) : timesAlpha (a ^^^ b) = timesAlpha a ^^^ timesAlpha b := by
  simp only [timesAlpha, BitVec.shiftLeft_xor_distrib, BitVec.getLsbD_xor]
  rw [xor_xor_xor_comm]
  cases a.getLsbD 7 <;> cases b.getLsbD 7 <;> rfl

theorem zero_of_xor {f : Byte → Byte} (hf : ∀ a b, f (a ^^^ b) = f a ^^^ f b) : f 0#8 = 0#8 := by
  simpa using hf 0#8 0#8

@[simp] theorem fieldMul_zero_left (a : Byte) : fieldMul 0#8 a = 0#8 :=
  zero_of_xor (f := fun b => fieldMul b a) fun b c => fieldMul_xor_left b c a

@[simp] theorem fieldMul_zero_right (a : Byte) : fieldMul a 0#8 = 0#8 := zero_of_xor (fieldMul_xor_right a)

/-! ### The basis 1, α, ..., α^7 -/

/-- Every byte is the sum of the α^i at its set bits. -/
theorem byte_eq_sum (a : Byte) :
    a = (List.range 8).foldl (fun acc i => if a.getLsbD i then acc ^^^ alphaPow i else acc) 0#8 := by
  revert a
  decide +kernel

/-- Additive functions that agree on the basis are equal. -/
theorem eq_of_xor_of_basis {f g : Byte → Byte} (hf : ∀ a b, f (a ^^^ b) = f a ^^^ f b)
    (hg : ∀ a b, g (a ^^^ b) = g a ^^^ g b) (h : ∀ i < 8, f (alphaPow i) = g (alphaPow i)) (a : Byte) : f a = g a := by
  have hzero : f 0#8 = g 0#8 := (zero_of_xor hf).trans (zero_of_xor hg).symm
  rw [byte_eq_sum a]
  refine List.foldlRecOn (motive := fun b => f b = g b) _ _ hzero fun b hb i hi => ?_
  split
  · rw [hf, hg, hb, h i (List.mem_range.1 hi)]
  · exact hb

theorem fieldMul_one_left (a : Byte) : fieldMul 1#8 a = a :=
  eq_of_xor_of_basis (g := id) (fieldMul_xor_right 1#8) (fun _ _ => rfl) (by decide) a

theorem fieldMul_timesAlpha_left (a b : Byte) : fieldMul (timesAlpha a) b = timesAlpha (fieldMul a b) := by
  refine eq_of_xor_of_basis (f := fun a => fieldMul (timesAlpha a) b) (g := fun a => timesAlpha (fieldMul a b))
    (fun a c => ?_) (fun a c => ?_) (fun i hi => ?_) a
  · simp only [timesAlpha_xor, fieldMul_xor_left]
  · simp only [fieldMul_xor_left, timesAlpha_xor]
  · refine eq_of_xor_of_basis (g := fun b => timesAlpha (fieldMul (alphaPow i) b)) (fieldMul_xor_right _)
      (fun b c => ?_) (fun j hj => ?_) b
    · simp only [fieldMul_xor_right, timesAlpha_xor]
    · revert i j
      decide

theorem fieldMul_alphaPow (i j : Nat) : fieldMul (alphaPow i) (alphaPow j) = alphaPow (i + j) := by
  induction i with
  | zero => rw [Nat.zero_add, alphaPow, fieldMul_one_left]
  | succ i ih => rw [alphaPow, fieldMul_timesAlpha_left, ih, Nat.add_right_comm, alphaPow]

/-! ### The laws of the field -/

theorem fieldMul_comm (a b : Byte) : fieldMul a b = fieldMul b a := by
  refine eq_of_xor_of_basis (f := fun a => fieldMul a b) (fun a c => fieldMul_xor_left a c b) (fieldMul_xor_right b)
    (fun i _ => ?_) a
  refine eq_of_xor_of_basis (g := fun b => fieldMul b (alphaPow i)) (fieldMul_xor_right _)
    (fun b c => fieldMul_xor_left b c _) (fun j _ => ?_) b
  rw [fieldMul_alphaPow, fieldMul_alphaPow, Nat.add_comm]

theorem fieldMul_one_right (a : Byte) : fieldMul a 1#8 = a := (fieldMul_comm a _).trans (fieldMul_one_left a)

theorem fieldMul_assoc (a b c : Byte) : fieldMul (fieldMul a b) c = fieldMul a (fieldMul b c) := by
  refine eq_of_xor_of_basis (f := fun a => fieldMul (fieldMul a b) c) (g := fun a => fieldMul a (fieldMul b c))
    (fun _ _ => ?_) (fun a d => fieldMul_xor_left a d _) (fun i _ => ?_) a
  · simp only [fieldMul_xor_left]
  refine eq_of_xor_of_basis (f := fun b => fieldMul (fieldMul (alphaPow i) b) c)
    (g := fun b => fieldMul (alphaPow i) (fieldMul b c)) (fun _ _ => ?_) (fun _ _ => ?_) (fun j _ => ?_) b
  · simp only [fieldMul_xor_left, fieldMul_xor_right]
  · simp only [fieldMul_xor_left, fieldMul_xor_right]
  refine eq_of_xor_of_basis (g := fun c => fieldMul (alphaPow i) (fieldMul (alphaPow j) c)) (fieldMul_xor_right _)
    (fun _ _ => ?_) (fun k _ => ?_) c
  · simp only [fieldMul_xor_right]
  · simp only [fieldMul_alphaPow, Nat.add_assoc]

end Sys2Proof.Machine
end

section
/-! SUPPORT. The tables against the field (43_gf_rs.md R162 to R165): EXP holds the powers of α, LOG their exponents,
GEN the exponents of the generator polynomial's coefficients; so gf_mul is the field's multiplication. -/

namespace Sys2Proof.Machine

open Sys2Proof.Claims

/-! ### EXP -/

theorem expRom_tail : expRom.tail = (expRom.take 511).map timesAlpha := by decide +kernel

theorem EXP_succ {i : Nat} (h : i < 511) : EXP (i + 1) = timesAlpha (EXP i) := by
  have htail : EXP (i + 1) = expRom.tail.getD i 0 := by
    simp only [EXP, List.getD_eq_getElem?_getD, List.getElem?_tail]
  have htake : (expRom.take 511).getD i 0 = EXP i := by
    simp only [EXP, List.getD_eq_getElem?_getD, List.getElem?_take_of_lt h]
  rw [htail, expRom_tail, ← htake]
  exact List.getD_map _ 0 timesAlpha

theorem EXP_eq_alphaPow {i : Nat} (h : i ≤ 511) : EXP i = alphaPow i := by
  induction i with
  | zero => rfl
  | succ i ih => rw [EXP_succ h, ih (Nat.le_of_lt h), alphaPow]

/-- α has order 255 (R161, R162). -/
theorem alphaPow_255 : alphaPow 255 = 1#8 := by
  rw [← EXP_eq_alphaPow (by decide)]
  decide

theorem alphaPow_add_255 (i : Nat) : alphaPow (i + 255) = alphaPow i := by
  rw [← fieldMul_alphaPow, alphaPow_255, fieldMul_one_right]

theorem alphaPow_mod_255 (i : Nat) : alphaPow (i % 255) = alphaPow i :=
  Function.Periodic.map_mod_nat alphaPow_add_255 i

theorem EXP_eq_alphaPow_mod {i : Nat} (h : i ≤ 511) : EXP i = alphaPow (i % 255) := by
  rw [EXP_eq_alphaPow h, alphaPow_mod_255]

/-- α^i has an inverse, since α^(255 i) = 1. -/
theorem alphaPow_inverse (i : Nat) : fieldMul (alphaPow i) (alphaPow (254 * i)) = 1#8 := by
  have hmod : (i + 254 * i) % 255 = 0 := by omega
  rw [fieldMul_alphaPow, ← alphaPow_mod_255, hmod, alphaPow]

theorem alphaPow_ne_zero (i : Nat) : alphaPow i ≠ 0#8 := by
  intro h
  have hinv := alphaPow_inverse i
  rw [h, fieldMul_zero_left] at hinv
  exact absurd hinv (by decide)

/-- Multiplication by α as the rule's recurrence computes it (R162). -/
theorem timesAlpha_toNat (a : Byte) :
    (timesAlpha a).toNat = if 256 ≤ 2 * a.toNat then (2 * a.toNat) ^^^ 0x11D else 2 * a.toNat := by
  revert a
  decide +kernel

/-! ### LOG -/

theorem alphaPow_logRom :
    logRom.map (fun e => alphaPow e.toNat) = 1#8 :: (List.range' 1 255).map (BitVec.ofNat 8) := by decide +kernel

theorem alphaPow_LOG {a : Byte} (ha : a ≠ 0#8) : alphaPow (LOG a).toNat = a := by
  obtain ⟨i, hi⟩ : ∃ i, a.toNat = i + 1 :=
    Nat.exists_eq_add_one.2 (Nat.pos_of_ne_zero fun h => ha (BitVec.eq_of_toNat_eq h))
  have hlt : i < 255 := by have := a.isLt; omega
  calc alphaPow (LOG a).toNat
      = (logRom.map (fun e => alphaPow e.toNat)).getD a.toNat 1#8 :=
        (List.getD_map logRom 0 (fun e => alphaPow e.toNat)).symm
    _ = BitVec.ofNat 8 (1 + i) := by
      rw [alphaPow_logRom, hi, List.getD_cons_succ]
      simp [hlt]
    _ = a := by rw [Nat.add_comm, ← hi, BitVec.ofNat_toNat, BitVec.setWidth_eq]

/-- A bound on every entry of a table bounds what is looked up, the default 0 included. -/
theorem getD_lt_of_all {l : List Byte} (h : l.all (fun e => e.toNat < 255) = true) (j : Nat) :
    (l.getD j 0#8).toNat < 255 := by
  rcases Nat.lt_or_ge j l.length with hj | hj
  · rw [List.getD_eq_getElem _ _ hj]
    exact of_decide_eq_true (List.all_eq_true.1 h _ (List.getElem_mem hj))
  · rw [List.getD_eq_default _ _ hj]
    decide

theorem LOG_lt (a : Byte) : (LOG a).toNat < 255 := getD_lt_of_all (by decide +kernel) _

theorem LOG_zero : LOG 0#8 = 0#8 := rfl

/-! ### gf_mul -/

/-- gf_mul is the field's multiplication: logarithms add (R160, R161). -/
theorem gfMul_eq_fieldMul (a b : Byte) : gfMul a b = fieldMul a b := by
  rw [gfMul]
  split
  case isTrue h => rcases h with rfl | rfl <;> simp
  case isFalse h =>
    obtain ⟨ha, hb⟩ := not_or.1 h
    have hla := LOG_lt a
    have hlb := LOG_lt b
    rw [EXP_eq_alphaPow (by omega), ← fieldMul_alphaPow, alphaPow_LOG ha, alphaPow_LOG hb]

/-- A nonzero factor's term is its product with the generator's coefficient (R170). -/
theorem rsTerm_eq_fieldMul {f : Byte} (hf : f ≠ 0#8) (g : Byte) : rsTerm f g = fieldMul f (alphaPow g.toNat) := by
  have hg : EXP g.toNat = alphaPow g.toNat := EXP_eq_alphaPow (by have := g.isLt; omega)
  rw [rsTerm, hg, EXP_eq_alphaPow (by omega), alphaPow_mod_255, ← fieldMul_alphaPow, alphaPow_LOG hf,
    alphaPow_LOG (alphaPow_ne_zero _)]

/-! ### GEN -/

/-- The rows of R164 are the exponents of the generator polynomials' coefficients after the leading 1. -/
theorem generatorPoly_eq_row {n : Nat} (h1 : 1 ≤ n) (h2 : n ≤ 26) :
    generatorPoly n = 1#8 :: (genericRow n).map (fun e => alphaPow e.toNat) := by
  have hrows : ∀ n < 27, 1 ≤ n → generatorPoly n = 1#8 :: (genericRow n).map (fun e => alphaPow e.toNat) := by
    decide +kernel
  exact hrows n (by omega) h1

theorem genericRow_length {n : Nat} (h1 : 1 ≤ n) (h2 : n ≤ 26) : (genericRow n).length = n := by
  have hrows : ∀ n < 27, 1 ≤ n → (genericRow n).length = n := by decide
  exact hrows n (by omega) h1

/-- Every exponent of a row is below 255 (R164). -/
theorem genericRow_getD_lt {n : Nat} (h : n ≤ 26) (j : Nat) : ((genericRow n).getD j 0#8).toNat < 255 := by
  have hrows : ∀ n < 27, (genericRow n).all (fun e => e.toNat < 255) = true := by decide
  exact getD_lt_of_all (hrows n (by omega)) j

theorem genRow_populated {mode : GenMode} {n : Nat} (h : mode = .generic ∨ n ∈ legacyCounts) :
    genRow mode n = genericRow n := by
  cases mode
  case generic => rfl
  case legacyHoles => exact if_pos (h.resolve_left (by decide))

theorem genRow_hole {n : Nat} (h : n ∉ legacyCounts) : genRow .legacyHoles n = List.replicate n 0#8 := if_neg h

theorem genRow_length (mode : GenMode) {n : Nat} (h1 : 1 ≤ n) (h2 : n ≤ 26) : (genRow mode n).length = n := by
  by_cases h : mode = .generic ∨ n ∈ legacyCounts
  · rw [genRow_populated h, genericRow_length h1 h2]
  · obtain ⟨hm, hn⟩ := not_or.1 h
    cases mode
    case generic => exact absurd rfl hm
    case legacyHoles => rw [genRow_hole hn, List.length_replicate]

/-- GEN's exponent gives the coefficient after the leading 1 that stands at the same place (R164). -/
theorem alphaPow_genericRow {n j : Nat} (h1 : 1 ≤ n) (h2 : n ≤ 26) (hj : j < n) :
    alphaPow ((genericRow n).getD j 0#8).toNat = (generatorPoly n).getD (j + 1) 0#8 := by
  have hlen := genericRow_length h1 h2
  rw [generatorPoly_eq_row h1 h2]
  simp [hlen, hj]

end Sys2Proof.Machine
end

section
/-! SUPPORT. Polynomials over the field, evaluated at α^i (43_gf_rs.md R164, R172): what `evalAt` does on each way a
polynomial is put together, and the roots of the generator polynomial. -/

namespace Sys2Proof.Machine

open Sys2Proof.Claims

/-! ### Evaluation -/

@[simp] theorem evalAt_nil (x : Byte) : evalAt x [] = 0#8 := rfl

theorem evalAt_concat (x : Byte) (p : List Byte) (c : Byte) : evalAt x (p ++ [c]) = fieldMul (evalAt x p) x ^^^ c := by
  simp [evalAt]

/-- Appending shifts the front by α^i once per byte appended. -/
theorem evalAt_append (i : Nat) (p q : List Byte) :
    evalAt (alphaPow i) (p ++ q) =
      fieldMul (evalAt (alphaPow i) p) (alphaPow (i * q.length)) ^^^ evalAt (alphaPow i) q := by
  induction q using List.reverseRecOn with
  | nil => simp [alphaPow, fieldMul_one_right]
  | append_singleton q c ih =>
    rw [← List.append_assoc, evalAt_concat, ih, evalAt_concat, fieldMul_xor_left, fieldMul_assoc, fieldMul_alphaPow,
      List.length_append, List.length_singleton, Nat.mul_add, Nat.mul_one, BitVec.xor_assoc]

theorem evalAt_cons (i : Nat) (c : Byte) (p : List Byte) :
    evalAt (alphaPow i) (c :: p) = fieldMul c (alphaPow (i * p.length)) ^^^ evalAt (alphaPow i) p := by
  have hc : evalAt (alphaPow i) [c] = c := by simp [evalAt]
  rw [← List.singleton_append, evalAt_append, hc]

theorem evalAt_zipWith_xor (i : Nat) {p q : List Byte} (h : p.length = q.length) :
    evalAt (alphaPow i) (List.zipWith (fun x y => x ^^^ y) p q) =
      evalAt (alphaPow i) p ^^^ evalAt (alphaPow i) q := by
  induction p generalizing q with
  | nil => simp [List.length_eq_zero_iff.1 h.symm]
  | cons c p ih =>
    obtain ⟨d, q, rfl⟩ := List.exists_cons_of_length_eq_add_one h.symm
    have hpq : p.length = q.length := Nat.succ.inj h
    rw [List.zipWith_cons_cons, evalAt_cons, evalAt_cons, evalAt_cons, ih hpq, List.length_zipWith, ← hpq, Nat.min_self,
      fieldMul_xor_left, xor_xor_xor_comm]

theorem evalAt_map_fieldMul (x f : Byte) (p : List Byte) :
    evalAt x (p.map (fieldMul f)) = fieldMul f (evalAt x p) := by
  induction p using List.reverseRecOn with
  | nil => simp
  | append_singleton p c ih =>
    rw [List.map_append, List.map_singleton, evalAt_concat, evalAt_concat, ih, fieldMul_assoc, fieldMul_xor_right]

theorem evalAt_zeros (x : Byte) (n : Nat) : evalAt x (List.replicate n 0#8) = 0#8 := by
  induction n with
  | zero => rfl
  | succ n ih => rw [List.replicate_succ', evalAt_concat, ih, fieldMul_zero_left, BitVec.xor_self]

/-! ### The generator polynomial -/

theorem evalAt_timesLinear (i : Nat) (p : List Byte) (r : Byte) :
    evalAt (alphaPow i) (timesLinear p r) = fieldMul (evalAt (alphaPow i) p) (alphaPow i ^^^ r) := by
  rw [timesLinear, evalAt_zipWith_xor i (by simp), evalAt_concat, evalAt_cons, evalAt_map_fieldMul, fieldMul_zero_left,
    BitVec.xor_zero, BitVec.zero_xor, fieldMul_xor_right, fieldMul_comm r]

/-- α^0, ..., α^(n-1) are roots of the generator polynomial (R164). -/
theorem evalAt_generatorPoly {i n : Nat} (h : i < n) : evalAt (alphaPow i) (generatorPoly n) = 0#8 := by
  induction n with
  | zero => exact absurd h (Nat.not_lt_zero i)
  | succ n ih =>
    rw [generatorPoly, evalAt_timesLinear]
    rcases Nat.lt_succ_iff_lt_or_eq.1 h with hlt | rfl
    · rw [ih hlt, fieldMul_zero_left]
    · rw [BitVec.xor_self, fieldMul_zero_right]

/-- The coefficients after the leading 1 sum to x^n at every root (R164). -/
theorem evalAt_genericRow {i n : Nat} (h1 : 1 ≤ n) (h2 : n ≤ 26) (hi : i < n) :
    evalAt (alphaPow i) ((genericRow n).map (fun e => alphaPow e.toNat)) = alphaPow (i * n) := by
  have hroot := evalAt_generatorPoly hi
  rw [generatorPoly_eq_row h1 h2, evalAt_cons, List.length_map, genericRow_length h1 h2, fieldMul_one_left] at hroot
  exact (BitVec.xor_eq_zero_iff.1 hroot).symm

end Sys2Proof.Machine
end

section
/-! SUPPORT. The Reed-Solomon encoder (43_gf_rs.md R170, R171): one data byte through the register as field arithmetic
(`rsStep_eq`), and from it what the register holds after all of them. -/

namespace Sys2Proof.Machine

open Sys2Proof.Claims

/-! ### One data byte -/

theorem zipWith_xor_replicate (l : List Byte) (f : Byte) :
    List.zipWith (fun x y => x ^^^ y) l (List.replicate l.length f) = l.map (fun x => x ^^^ f) := by
  induction l with
  | nil => rfl
  | cons x l ih => rw [List.length_cons, List.replicate_succ, List.zipWith_cons_cons, ih, List.map_cons]

/-- The register shifts, and each position takes the factor times its generator coefficient; a zero factor is no
exception (R170). -/
theorem rsStep_eq {row reg : List Byte} (hlen : row.length = reg.length) (hpos : 1 ≤ reg.length) (d : Byte) :
    rsStep row reg d = List.zipWith (fun x y => x ^^^ y) (reg.drop 1 ++ [0#8])
      ((row.map (fun e => alphaPow e.toNat)).map (fieldMul (d ^^^ reg.headD 0#8))) := by
  generalize hf : d ^^^ reg.headD 0#8 = f
  rw [rsStep, hf]
  split
  case isTrue h =>
    have hshift : (reg.drop 1 ++ [0#8]).length = row.length := by simp; omega
    have hterms : (row.map (fun e => alphaPow e.toNat)).map (fieldMul f) = List.replicate row.length 0#8 := by
      simp [h, Function.comp_def]
    rw [hterms, ← hshift, zipWith_xor_replicate]
    simp
  case isFalse h =>
    rw [List.map_map, List.zipWith_map_right]
    simp only [rsTerm_eq_fieldMul h, Function.comp_apply]

theorem rsStep_length {row reg : List Byte} (hlen : row.length = reg.length) (hpos : 1 ≤ reg.length) (d : Byte) :
    (rsStep row reg d).length = reg.length := by
  rw [rsStep_eq hlen hpos]
  simp
  omega

/-- A row of zero exponents XORs the factor into every position (R165). -/
theorem rsStep_zeroRow {reg : List Byte} (hpos : 1 ≤ reg.length) (d : Byte) :
    rsStep (List.replicate reg.length 0#8) reg d = holeStep reg d := by
  have hshift : (reg.drop 1 ++ [0#8]).length = reg.length := by simp; omega
  rw [rsStep_eq List.length_replicate hpos, List.map_replicate, List.map_replicate, holeStep, ← zipWith_xor_replicate,
    hshift]
  simp only [BitVec.toNat_ofNat, Nat.zero_mod, alphaPow, fieldMul_one_right]

/-- A zero byte leaves a zero register (R170). -/
theorem rsStep_zero (row : List Byte) (n : Nat) :
    rsStep row (List.replicate (n + 1) 0#8) 0#8 = List.replicate (n + 1) 0#8 := by
  have hf : 0#8 ^^^ (List.replicate (n + 1) 0#8).headD 0#8 = 0#8 := by simp [List.replicate_succ]
  rw [rsStep, hf, if_pos rfl, List.drop_replicate, Nat.add_sub_cancel, ← List.replicate_succ']

/-- One step on the register's value at a root: the data byte enters x^n times, then all is times x (R171). -/
theorem evalAt_rsStep {i n : Nat} (h1 : 1 ≤ n) (h2 : n ≤ 26) (hi : i < n) {reg : List Byte} (hreg : reg.length = n)
    (d : Byte) :
    evalAt (alphaPow i) (rsStep (genericRow n) reg d) =
      fieldMul (evalAt (alphaPow i) reg) (alphaPow i) ^^^ fieldMul d (alphaPow (i * n)) := by
  obtain ⟨c, tl, rfl⟩ := List.exists_cons_of_length_pos (hreg ▸ h1 : 0 < reg.length)
  have hrow : (genericRow n).length = (c :: tl).length := (genericRow_length h1 h2).trans hreg.symm
  have htl : tl.length + 1 = n := hreg
  rw [rsStep_eq hrow (hreg ▸ h1), evalAt_zipWith_xor i (by simp [hrow]), evalAt_map_fieldMul,
    evalAt_genericRow h1 h2 hi, List.drop_one, List.tail_cons, evalAt_concat, BitVec.xor_zero, List.headD_cons,
    evalAt_cons, fieldMul_xor_left, fieldMul_xor_left, fieldMul_assoc, fieldMul_alphaPow, ← Nat.mul_add_one, htl]
  ac_rfl

/-! ### All data bytes -/

theorem rsEncode_concat (mode : GenMode) (n : Nat) (data : List Byte) (d : Byte) :
    rsEncode mode n (data ++ [d]) = rsStep (genRow mode n) (rsEncode mode n data) d := by
  simp [rsEncode]

theorem rsEncode_length (mode : GenMode) {n : Nat} (h1 : 1 ≤ n) (h2 : n ≤ 26) (data : List Byte) :
    (rsEncode mode n data).length = n := by
  induction data using List.reverseRecOn with
  | nil => exact List.length_replicate
  | append_singleton data d ih =>
    rw [rsEncode_concat, rsStep_length ((genRow_length mode h1 h2).trans ih.symm) (by omega), ih]

/-- The register's value at a root is the data's times x^n (R171, R172). -/
theorem evalAt_rsEncode {mode : GenMode} {i n : Nat} (h1 : 1 ≤ n) (h2 : n ≤ 26)
    (hrow : mode = .generic ∨ n ∈ legacyCounts) (hi : i < n) (data : List Byte) :
    evalAt (alphaPow i) (rsEncode mode n data) = fieldMul (evalAt (alphaPow i) data) (alphaPow (i * n)) := by
  induction data using List.reverseRecOn with
  | nil => rw [evalAt_nil, fieldMul_zero_left, rsEncode, List.foldl_nil, evalAt_zeros]
  | append_singleton data d ih =>
    rw [rsEncode_concat, genRow_populated hrow, evalAt_rsStep h1 h2 hi (rsEncode_length mode h1 h2 data), ih,
      evalAt_concat, fieldMul_xor_left, fieldMul_assoc, fieldMul_assoc, fieldMul_comm (alphaPow i)]

/-- Data and parity vanish at the roots of the generator polynomial (R172). -/
theorem syndromesVanish_append_rsEncode {mode : GenMode} {n : Nat} (h1 : 1 ≤ n) (h2 : n ≤ 26)
    (hrow : mode = .generic ∨ n ∈ legacyCounts) (data : List Byte) :
    SyndromesVanish n (data ++ rsEncode mode n data) := by
  intro i hi
  rw [evalAt_append, evalAt_rsEncode h1 h2 hrow hi, rsEncode_length mode h1 h2, BitVec.xor_self]

theorem rsEncode_hole {n : Nat} (h1 : 1 ≤ n) (h2 : n ≤ 26) (h : n ∉ legacyCounts) (data : List Byte) :
    rsEncode .legacyHoles n data = data.foldl holeStep (List.replicate n 0#8) := by
  induction data using List.reverseRecOn with
  | nil => rfl
  | append_singleton data d ih =>
    have hlen := rsEncode_length .legacyHoles h1 h2 data
    have hstep := rsStep_zeroRow (reg := rsEncode .legacyHoles n data) (by omega) d
    rw [hlen] at hstep
    rw [rsEncode_concat, genRow_hole h, hstep, ih, List.foldl_append, List.foldl_cons, List.foldl_nil]

theorem rsEncode_zeros (mode : GenMode) {n : Nat} (h1 : 1 ≤ n) (k : Nat) :
    rsEncode mode n (List.replicate k 0#8) = List.replicate n 0#8 := by
  obtain ⟨m, rfl⟩ := Nat.exists_eq_add_one.2 h1
  induction k with
  | zero => rfl
  | succ k ih => rw [List.replicate_succ', rsEncode_concat, ih, rsStep_zero]

end Sys2Proof.Machine
end

section
/-! SUPPORT. What GFMUL, GFEXP, GFLOG, GFGEN and RSENC answer where they raise nothing (43_gf_rs.md R166 to R171). -/

namespace Sys2Proof.Machine

open Sys2Proof.Claims

/-! ### The commands that leave a byte in RESULT -/

theorem exec_gfmul (a b : Byte) (s : State) :
    exec (.gfmul a b) s = .next { completedOk s with result := gfMul a b } := rfl

theorem exec_gfexp (idx : BitVec 9) (s : State) :
    exec (.gfexp idx) s = .next { completedOk s with result := EXP idx.toNat } := rfl

theorem exec_gflog (a : Byte) (s : State) : exec (.gflog a) s = .next { completedOk s with result := LOG a } := rfl

theorem eccCountOk_iff (n : Byte) : eccCountOk n = true ↔ 1 ≤ n.toNat ∧ n.toNat ≤ 26 := by
  rw [eccCountOk, Bool.and_eq_true, decide_eq_true_iff, decide_eq_true_iff]
  rfl

theorem exec_gfgen {n j : Byte} (h1 : 1 ≤ n.toNat) (h2 : n.toNat ≤ 26) (hj : j.toNat < n.toNat) (s : State) :
    exec (.gfgen n j) s =
      .next { completedOk s with result := (genRow s.params.genMode n.toNat).getD j.toNat 0#8 } := by
  have hbody : gfgenBody n j s = done (s.setResult (GEN s.params.genMode n.toNat j.toNat)) := by
    simp [gfgenBody, (eccCountOk_iff n).2 ⟨h1, h2⟩, operand, Nat.not_le.2 hj]
  have hexec : exec (.gfgen n j) s = .next (gfgenBody n j s).complete := rfl
  rw [hexec, hbody]
  rfl

/-- Where the row is GENERIC's, GFGEN answers the exponent of the polynomial's coefficient (R164, R169). -/
theorem exec_gfgen_populated {n j : Byte} (h1 : 1 ≤ n.toNat) (h2 : n.toNat ≤ 26) (hj : j.toNat < n.toNat) {s : State}
    (hrow : s.params.genMode = .generic ∨ n.toNat ∈ legacyCounts) :
    ∃ e : Nat, e < 255 ∧ alphaPow e = (generatorPoly n.toNat).getD (j.toNat + 1) 0#8 ∧
      exec (.gfgen n j) s = .next { completedOk s with result := BitVec.ofNat 8 e } := by
  refine ⟨_, genericRow_getD_lt h2 j.toNat, alphaPow_genericRow h1 h2 hj, ?_⟩
  rw [exec_gfgen h1 h2 hj, genRow_populated hrow, BitVec.ofNat_toNat, BitVec.setWidth_eq]

/-! ### GFEXP's word -/

/-- Format FAB1's word is OP + 256*(idx mod 256) + 65536*(idx div 256) (R96, R98). -/
theorem ofNat_eq_wordFAB1 (op : Byte) (idx : BitVec 9) :
    BitVec.ofNat 32 (op.toNat + 256 * (idx.toNat % 256) + 65536 * (idx.toNat / 256)) = wordFAB1 op idx := by
  have hop := op.isLt
  have hidx := idx.isLt
  apply BitVec.eq_of_toNat_eq
  simp only [wordFAB1, BitVec.toNat_append, BitVec.toNat_ofNat]
  rw [← Nat.shiftLeft_add_eq_or_of_lt hop, ← Nat.shiftLeft_add_eq_or_of_lt hidx, Nat.shiftLeft_eq, Nat.shiftLeft_eq]
  omega

/-! ### RSENC -/

/-- The state RSENC leaves: the parity bytes behind the data bytes. -/
def rsencLeaves (n k : Nat) (s : State) : State :=
  { completedOk s with mem := s.mem.setCwbuf k (rsEncode s.params.genMode n (codewords s.mem k)) }

theorem exec_rsenc {n k : Byte} (h1 : 1 ≤ n.toNat) (h2 : n.toNat ≤ 26) (h3 : k.toNat + n.toNat ≤ 256) (s : State) :
    exec (.rsenc n k) s = .next (rsencLeaves n.toNat k.toNat s) := by
  have hbody : rsencBody n.toNat k.toNat s = done
      { s with mem := s.mem.setCwbuf k.toNat (rsEncode s.params.genMode n.toNat (codewords s.mem k.toNat)) } := by
    rw [rsencBody, if_neg (by omega), if_neg (by omega)]
    rfl
  have hexec : exec (.rsenc n k) s = .next (rsencBody n.toNat k.toNat s).complete := rfl
  rw [hexec, hbody]
  rfl

section

variable {n : Nat} (h1 : 1 ≤ n) (h2 : n ≤ 26) (k : Nat) (s : State)
include h1 h2

/-- The parity bytes, read back. -/
theorem rsencLeaves_cwbuf {j : Nat} (hj : j < n) :
    (rsencLeaves n k s).mem.cwbuf (k + j) = (rsEncode s.params.genMode n (codewords s.mem k)).getD j 0#8 := by
  have hlen := rsEncode_length s.params.genMode h1 h2 (codewords s.mem k)
  rw [rsencLeaves, Memory.cwbuf_setCwbuf, if_pos (by omega), Nat.add_sub_cancel_left]

theorem rsencLeaves_read {a : Nat} (ha : a < 0x200 + k ∨ 0x200 + k + n ≤ a) :
    (rsencLeaves n k s).mem.read a = s.mem.read a :=
  Memory.read_setCwbuf_out _ _ _ (by rwa [rsEncode_length _ h1 h2])

/-- The codewords are the data bytes, then the parity bytes. -/
theorem codewords_rsencLeaves :
    codewords (rsencLeaves n k s).mem k = codewords s.mem k ∧
      codewords (rsencLeaves n k s).mem (k + n) =
        codewords s.mem k ++ rsEncode s.params.genMode n (codewords s.mem k) := by
  have hdata : codewords (rsencLeaves n k s).mem k = codewords s.mem k := by
    refine List.map_congr_left fun i hi => rsencLeaves_read h1 h2 k s (.inl ?_)
    have := List.mem_range.1 hi
    simp only [cwbufBase]
    omega
  refine ⟨hdata, ?_⟩
  have hparity : (List.range n).map (fun j => (rsencLeaves n k s).mem.cwbuf (k + j)) =
      rsEncode s.params.genMode n (codewords s.mem k) := by
    refine List.ext_getElem (by simp [rsEncode_length _ h1 h2]) fun j hj hj' => ?_
    have hjn : j < n := by simpa using hj
    rw [List.getElem_map, List.getElem_range, rsencLeaves_cwbuf h1 h2 k s hjn, List.getD_eq_getElem _ _ hj']
  rw [← hparity]
  conv_lhs => rw [codewords, List.range_add, List.map_append, List.map_map]
  exact congrArg (· ++ _) hdata

end

end Sys2Proof.Machine
end

section
/-! The statements of the GF(256) and Reed-Solomon family, settled. -/

namespace Sys2Proof.Machine

open Sys2Proof.Claims

/-- Settles O15: gf_mul is the field's multiplication. -/
theorem gfmulMultipliesModulo11D : Obligations.GfmulMultipliesModulo11D := by
  unfold Obligations.GfmulMultipliesModulo11D
  intro s a b
  rw [exec_gfmul, gfMul_eq_fieldMul]

/-- Settles O16: the laws of the field, and the inverse of the power of α that a nonzero byte is. -/
theorem gfMulIsAFieldMultiplication : Obligations.GfMulIsAFieldMultiplication := by
  unfold Obligations.GfMulIsAFieldMultiplication
  intro a b c
  simp only [gfMul_eq_fieldMul]
  refine ⟨fieldMul_comm a b, fieldMul_assoc a b c, fieldMul_one_left b, fieldMul_zero_left b, fieldMul_xor_right a b c,
    fun ha => ⟨alphaPow (254 * (LOG a).toNat), ?_⟩⟩
  have hinv := alphaPow_inverse (LOG a).toNat
  rwa [alphaPow_LOG ha] at hinv

/-- Settles O17: each entry is the power of α of its index, and α has order 255. -/
theorem expTableFollowsTheRecurrence : Obligations.ExpTableFollowsTheRecurrence := by
  unfold Obligations.ExpTableFollowsTheRecurrence
  refine ⟨rfl, fun i hi => ?_, fun i hlo hhi => ?_, fun i hi => ⟨EXP_eq_alphaPow_mod hi, ?_⟩⟩
  · rw [EXP_succ (by omega), timesAlpha_toNat]
  · rw [EXP_eq_alphaPow hhi, EXP_eq_alphaPow (by omega), ← alphaPow_add_255 (i - 255), Nat.sub_add_cancel hlo]
  · rw [EXP_eq_alphaPow hi]
    exact alphaPow_ne_zero i

/-- Settles O18: EXP holds the powers of α, and the word is the encoder's. -/
theorem gfexpAnswersAPowerOfAlpha : Obligations.GfexpAnswersAPowerOfAlpha := by
  unfold Obligations.GfexpAnswersAPowerOfAlpha
  refine ⟨fun s idx => ?_, fun idx => ?_⟩
  · rw [exec_gfexp, EXP_eq_alphaPow_mod (by have := idx.isLt; omega)]
  · have hword := ofNat_eq_wordFAB1 0x31#8 idx
    exact (congrArg decode hword).trans (decode_encode (.gfexp idx))

/-- Settles O19: LOG holds the exponents. -/
theorem gflogAnswersTheExponent : Obligations.GflogAnswersTheExponent := by
  unfold Obligations.GflogAnswersTheExponent
  refine ⟨fun s a ha => ⟨(LOG a).toNat, LOG_lt a, alphaPow_LOG ha, ?_⟩, fun s => ?_⟩
  · rw [exec_gflog, BitVec.ofNat_toNat, BitVec.setWidth_eq]
  · rw [exec_gflog, LOG_zero]

/-- Settles O20: the generic rows hold the exponents of the generator polynomials' coefficients. -/
theorem gfgenAnswersAGeneratorCoefficient : Obligations.GfgenAnswersAGeneratorCoefficient := by
  unfold Obligations.GfgenAnswersAGeneratorCoefficient
  exact fun s n j h1 h2 hj hmode => exec_gfgen_populated h1 h2 hj (.inl hmode)

/-- Settles O21: the populated rows are the generic ones, a hole's row is zeros. -/
theorem gfgenUnderLegacyHoles : Obligations.GfgenUnderLegacyHoles := by
  unfold Obligations.GfgenUnderLegacyHoles
  refine fun s n j h1 h2 hj hmode => ⟨fun hn => exec_gfgen_populated h1 h2 hj (.inr hn), fun hn => ?_⟩
  have hrow : (genRow s.params.genMode n.toNat).getD j.toNat 0#8 = 0#8 := by
    rw [hmode, genRow_hole hn]
    simp [hj]
  rw [exec_gfgen h1 h2 hj, hrow]

/-- Settles O22: the parity is n bytes long. -/
theorem rsencWritesOnlyItsParityBytes : Obligations.RsencWritesOnlyItsParityBytes := by
  unfold Obligations.RsencWritesOnlyItsParityBytes
  exact fun s n k h1 h2 h3 => ⟨_, exec_rsenc h1 h2 h3 s, rfl, fun a ha => rsencLeaves_read h1 h2 _ s ha⟩

/-- Settles O23: the register's value at each root of the generator polynomial is the shifted data's. -/
theorem rsencCodewordVanishesAtTheRoots : Obligations.RsencCodewordVanishesAtTheRoots := by
  unfold Obligations.RsencCodewordVanishesAtTheRoots
  intro s n k h1 h2 h3 hrow
  obtain ⟨hdata, hall⟩ := codewords_rsencLeaves h1 h2 k.toNat s
  refine ⟨_, exec_rsenc h1 h2 h3 s, hdata, ?_⟩
  rw [hall]
  exact syndromesVanish_append_rsEncode h1 h2 hrow _

/-- Settles O24: in a hole every coefficient is α^0 = 1. -/
theorem rsencDegeneratesInALegacyHole : Obligations.RsencDegeneratesInALegacyHole := by
  unfold Obligations.RsencDegeneratesInALegacyHole
  intro s n k h1 h2 h3 hmode hn
  refine ⟨_, exec_rsenc h1 h2 h3 s, fun j hj => ?_⟩
  rw [rsencLeaves_cwbuf h1 h2 _ s hj, hmode, rsEncode_hole h1 h2 hn]

/-- Settles O25: zero bytes leave the zero register as it is. -/
theorem rsencOfZeroDataIsZero : Obligations.RsencOfZeroDataIsZero := by
  unfold Obligations.RsencOfZeroDataIsZero
  intro s n k h1 h2 h3 hzero
  have hdata : codewords s.mem k.toNat = List.replicate k.toNat 0#8 :=
    List.eq_replicate_iff.2 ⟨by simp [codewords], fun b hb => by
      obtain ⟨i, hi, rfl⟩ := List.mem_map.1 hb
      exact hzero i (List.mem_range.1 hi)⟩
  refine ⟨_, exec_rsenc h1 h2 h3 s, fun j hj => ?_⟩
  rw [rsencLeaves_cwbuf h1 h2 _ s hj, hdata, rsEncode_zeros _ h1]
  simp [hj]

end Sys2Proof.Machine
end

section
/-! SUPPORT. What a run of set_fn calls leaves (44_patterns.md R201): a list of stamps that paints a pattern leaves the
pattern's cells as function cells with its values and every other byte as it was, whether function cells are stamped
over (`stamped_stampAll`) or skipped (`stamped_stampFree`). CLEARGRID's run of stores is of the same kind (R200). -/

namespace Sys2Proof.Machine

open Sys2Proof.Claims

/-- In a run of stores that keeps `Q`, one store turns `Q` into `P` and every store keeps `P`: the run ends in `P`. -/
theorem foldl_establishes {α : Type} {P Q : Memory → Prop} {f : Memory → α → Memory} {l : List α} {x : α}
    {mem : Memory} (hx : x ∈ l) (h0 : Q mem) (hQ : ∀ mem, ∀ y ∈ l, Q mem → Q (f mem y))
    (hset : ∀ mem, Q mem → P (f mem x)) (hP : ∀ mem, ∀ y ∈ l, P mem → P (f mem y)) : P (l.foldl f mem) := by
  obtain ⟨before, later, rfl⟩ := List.append_of_mem hx
  rw [List.foldl_append, List.foldl_cons]
  have hbefore : Q (before.foldl f mem) :=
    List.foldlRecOn before f h0 fun mem h y hy => hQ mem y (by simp [hy]) h
  exact List.foldlRecOn later f (hset _ hbefore) fun mem h y hy => hP mem y (by simp [hy]) h

/-! ### One set_fn call -/

/-- Cell (r, c) is a function cell of value `v`. -/
def Memory.HasCell (mem : Memory) (r c : Nat) (v : Bool) : Prop := mem.func r c = true ∧ mem.dark r c = v

theorem setFn_of_lt {m r c : Nat} (mem : Memory) (v : Bool) (hr : r < m) (hc : c < m) :
    setFn m mem r c v = mem.setCell r c v true := by
  rw [setFn, if_pos (by omega)]
  rfl

theorem Memory.hasCell_setCell {r c : Nat} (mem : Memory) (v : Bool) (hr : r < 37) (hc : c < 37) :
    (mem.setCell r c v true).HasCell r c v := by
  have hb := (backed_iff r c).2 ⟨hr, hc⟩
  simp [Memory.HasCell, Memory.func_setCell, Memory.dark_setCell, hb]

/-- A store to another cell leaves a cell's bits alone. -/
theorem Memory.cell_setCell_ne {i j r c : Nat} (mem : Memory) (d f : Bool) (h : ¬ (i = r ∧ j = c)) :
    (mem.setCell i j d f).func r c = mem.func r c ∧ (mem.setCell i j d f).dark r c = mem.dark r c := by
  rw [Memory.func_setCell, Memory.dark_setCell, if_neg (fun e => h e.2), if_neg (fun e => h e.2)]
  exact ⟨rfl, rfl⟩

/-- Between two memories a cell keeps its bits or becomes a function cell of value `v`. -/
def CellKeptOrSet (mem mem' : Memory) (r c : Nat) (v : Bool) : Prop :=
  (mem'.func r c = mem.func r c ∧ mem'.dark r c = mem.dark r c) ∨ mem'.HasCell r c v

theorem Memory.HasCell.trans {mem mem' : Memory} {r c : Nat} {v : Bool} (h : mem.HasCell r c v)
    (hs : CellKeptOrSet mem mem' r c v) : mem'.HasCell r c v := by
  rcases hs with ⟨hf, hd⟩ | hset
  · exact ⟨hf.trans h.1, hd.trans h.2⟩
  · exact hset

/-- A set_fn call is to the cell (r, c) of the square, or keeps that cell's bits. -/
theorem setFn_cell {m : Nat} (hm : m ≤ 37) (mem : Memory) (p : Stamp) (r c : Nat) :
    CellKeptOrSet mem (setFn m mem p.r p.c p.val) r c p.val ∧
      ((r < m ∧ c < m ∧ p = ⟨r, c, p.val⟩) ∨ ∀ v, CellKeptOrSet mem (setFn m mem p.r p.c p.val) r c v) := by
  rcases setFn_cases m mem p.r p.c p.val with ⟨i, j, hi, hj, him, hjm, e⟩ | e <;> rw [e]
  · by_cases h : i = r ∧ j = c
    · obtain ⟨rfl, rfl⟩ := h
      exact ⟨.inr (mem.hasCell_setCell p.val (by omega) (by omega)), .inl ⟨him, hjm, by rw [← hi, ← hj]⟩⟩
    · have hkept := mem.cell_setCell_ne p.val true h
      exact ⟨.inl hkept, .inr fun _ => .inl hkept⟩
  · exact ⟨.inl ⟨rfl, rfl⟩, .inr fun _ => .inl ⟨rfl, rfl⟩⟩

/-! ### A run of set_fn calls -/

/-- The stamps inside the m x m square are the cells of the pattern with their values. -/
def Paints (m : Nat) (stamps : List Stamp) (pattern : Nat → Nat → Option Bool) : Prop :=
  ∀ (r c : Nat) (v : Bool), (r < m ∧ c < m ∧ (⟨r, c, v⟩ : Stamp) ∈ stamps) ↔ pattern r c = some v

/-- One step of a pattern that leaves function cells alone (R206). -/
def stampFree (m : Nat) (mem : Memory) (p : Stamp) : Memory :=
  if mem.func p.r.toNat p.c.toNat then mem else setFn m mem p.r p.c p.val

section
variable {m : Nat} {stamps : List Stamp} {pattern : Nat → Nat → Option Bool} (hm : m ≤ 37)
  (h : Paints m stamps pattern) (mem : Memory)
include h

/-- A stamp of the run keeps every byte that is no cell of the pattern. -/
theorem Paints.read_setFn {p : Stamp} (hp : p ∈ stamps) {a : Nat} (mem : Memory)
    (ha : ∀ r c : Nat, p = ⟨r, c, p.val⟩ → pattern r c ≠ none → a ≠ cellAddr r c) :
    (setFn m mem p.r p.c p.val).read a = mem.read a := by
  rcases setFn_cases m mem p.r p.c p.val with ⟨r, c, hr, hc, hrm, hcm, e⟩ | e <;> rw [e]
  have hstamp : p = ⟨r, c, p.val⟩ := by rw [← hr, ← hc]
  have hval : pattern r c = some p.val := (h r c p.val).1 ⟨hrm, hcm, hstamp ▸ hp⟩
  have hne : a ≠ cellAddr r c := ha r c hstamp (by simp [hval])
  rw [Memory.read_setCell, if_neg (fun hc => hne hc.2.symm)]

theorem Paints.lt {r c : Nat} (hp : pattern r c ≠ none) : r < m ∧ c < m := by
  obtain ⟨v, hv⟩ := Option.ne_none_iff_exists'.1 hp
  obtain ⟨hr, hc, -⟩ := (h r c v).2 hv
  exact ⟨hr, hc⟩

/-- A stamp that skips function cells keeps every byte that is no free cell of the pattern. -/
theorem Paints.read_stampFree {p : Stamp} (hp : p ∈ stamps) {a : Nat} (mem : Memory)
    (ha : ∀ r c : Nat, pattern r c ≠ none → mem.func r c = false → a ≠ cellAddr r c) :
    (stampFree m mem p).read a = mem.read a := by
  rw [stampFree]
  split
  · rfl
  · next hfree =>
    refine h.read_setFn hp mem fun r c hstamp hcell => ha r c hcell ?_
    rw [hstamp] at hfree
    simpa using hfree

include hm

/-- A stamp of the run keeps a cell of the pattern or gives it the pattern's value. -/
theorem Paints.setFn_cell {p : Stamp} (hp : p ∈ stamps) {r c : Nat} {v : Bool} (hv : pattern r c = some v)
    (mem : Memory) : CellKeptOrSet mem (setFn m mem p.r p.c p.val) r c v := by
  obtain ⟨hcell, ⟨hr, hc, e⟩ | hkept⟩ := Machine.setFn_cell hm mem p r c
  · have hval : pattern r c = some p.val := (h r c p.val).1 ⟨hr, hc, e ▸ hp⟩
    obtain rfl := Option.some.inj (hval.symm.trans hv)
    exact hcell
  · exact hkept v

theorem stamped_stampAll : Stamped pattern mem (stampAll m mem stamps) := by
  constructor
  · intro r c v hr hc hv
    obtain ⟨hrm, hcm, hp⟩ := (h r c v).2 hv
    refine foldl_establishes (P := fun mem => mem.HasCell r c v) (Q := fun _ => True) hp trivial
      (fun _ _ _ _ => trivial) (fun mem _ => ?_) (fun mem p hp hcell => hcell.trans (h.setFn_cell hm hp hv mem))
    rw [setFn_of_lt mem v hrm hcm]
    exact mem.hasCell_setCell v hr hc
  · intro a ha
    refine List.foldlRecOn (motive := fun mem' : Memory => mem'.read a = mem.read a) stamps _ rfl
      fun mem' hmem p hp => (h.read_setFn hp mem' fun r c _ hcell => ?_).trans hmem
    have hlt := h.lt hcell
    exact ha r c (by omega) (by omega) hcell

theorem Paints.stampFree_cell {p : Stamp} (hp : p ∈ stamps) {r c : Nat} {v : Bool} (hv : pattern r c = some v)
    (mem : Memory) : CellKeptOrSet mem (stampFree m mem p) r c v := by
  rw [stampFree]
  split
  · exact .inl ⟨rfl, rfl⟩
  · exact h.setFn_cell hm hp hv mem

/-- Until its stamp is reached a free cell stays free, so the stamp is not skipped. -/
theorem stamped_stampFree :
    Stamped (fun r c => if mem.func r c then none else pattern r c) mem (stamps.foldl (stampFree m) mem) := by
  constructor
  · intro r c v hr hc hcell
    obtain ⟨hfree, hv⟩ : mem.func r c = false ∧ pattern r c = some v := by
      cases hf : mem.func r c <;> simp [hf] at hcell
      exact ⟨rfl, hcell⟩
    obtain ⟨hrm, hcm, hp⟩ := (h r c v).2 hv
    refine foldl_establishes (P := fun mem => mem.HasCell r c v)
      (Q := fun mem => mem.func r c = false ∨ mem.HasCell r c v) hp (.inl hfree) ?_ ?_
      (fun mem p hp hcell => hcell.trans (h.stampFree_cell hm hp hv mem))
    · rintro mem p hp (hfree | hcell)
      · exact (h.stampFree_cell hm hp hv mem).imp_left fun hkept => hkept.1.trans hfree
      · exact .inr (hcell.trans (h.stampFree_cell hm hp hv mem))
    · rintro mem (hfree | hcell)
      · rw [stampFree, if_neg (by simp [hfree]), setFn_of_lt mem v hrm hcm]
        exact mem.hasCell_setCell v hr hc
      · exact hcell.trans (h.stampFree_cell hm hp hv mem)
  · intro a ha
    refine List.foldlRecOn (motive := fun mem' : Memory => mem'.read a = mem.read a) stamps _ rfl
      fun mem' hmem p hp => (h.read_stampFree hp mem' fun r c hcell hfree hadr => ?_).trans hmem
    have hlt := h.lt hcell
    have hfunc : mem.func r c = false := by rw [← hfree, Memory.func, Memory.func, ← hadr, hmem]
    exact ha r c (by omega) (by omega) (by simpa [hfunc] using hcell) hadr

end

/-! ### What a stamped memory's function cells are -/

/-- The function cells after a pattern are the pattern's cells and the function cells there were. -/
theorem func_of_stamped {pattern : Nat → Nat → Option Bool} {m0 m1 : Memory} (h : Stamped pattern m0 m1) {r c : Nat}
    (hr : r < 37) (hc : c < 37) : m1.func r c = ((pattern r c).isSome || m0.func r c) := by
  obtain ⟨hcells, hframe⟩ := h
  cases hp : pattern r c with
  | some v => exact (hcells r c v hr hc hp).1
  | none =>
    have hread : m1.read (cellAddr r c) = m0.read (cellAddr r c) := by
      refine hframe _ fun i j hi hj hij hadr => hij ?_
      obtain ⟨rfl, rfl⟩ := cellAddr_inj (by omega) (by omega) hadr
      exact hp
    rw [Memory.func, hread]
    rfl

/-! ### CLEARGRID -/

/-- Stores to the cells of a square keep every byte that is no such cell's. -/
theorem CellStores.read_of_ne {m : Nat} {a b : Memory} (h : CellStores m a b) {x : Nat}
    (hx : ∀ r c, r < m → c < m → x ≠ cellAddr r c) : b.read x = a.read x := by
  induction h with
  | refl => rfl
  | tail _ hs ih =>
    obtain ⟨i, j, d, f, hi, hj, rfl⟩ := hs
    rw [Memory.read_setCell, if_neg (fun hc => hx i j hi hj hc.2.symm), ih]

theorem gridCleared_clearGrid (mem : Memory) : GridCleared mem (clearGrid mem) := by
  constructor
  · intro r c hr hc
    have hb := (backed_iff r c).2 ⟨hr, hc⟩
    refine foldl_establishes (x := (r, c)) (P := fun mem => mem.dark r c = false ∧ mem.func r c = false)
      (Q := fun _ => True) (mem_squareCells.2 ⟨hr, hc⟩) trivial (fun _ _ _ _ => trivial) (fun mem _ => ?_) ?_
    · simp [Memory.dark_setCell, Memory.func_setCell, hb]
    · rintro mem ⟨i, j⟩ - ⟨hd, hf⟩
      simp [Memory.dark_setCell, Memory.func_setCell, hd, hf]
  · intro a ha
    exact (cellStores_clearGrid mem).read_of_ne fun r c hr hc e => ha ⟨r, c, hr, hc, e⟩

/-- A cell the block does not have shows 0, and so does every cell of a cleared grid. -/
theorem arrayByte_of_gridCleared {m0 m1 : Memory} (h : GridCleared m0 m1) {off : Nat} (h1 : 0x1000 ≤ off)
    (h2 : off < 0x2000) : m1.arrayByte off = 0#8 := by
  rw [Memory.arrayByte, if_pos ((isGrid_iff off).2 ⟨h1, h2⟩)]
  cases hb : backed (windowRow off) (windowCol off) with
  | true =>
    obtain ⟨hr, hc⟩ := (backed_iff _ _).1 hb
    obtain ⟨hd, hf⟩ := h.1 _ _ hr hc
    rw [hd, hf]
    rfl
  | false =>
    rw [Memory.dark, Memory.func, hb]
    rfl

end Sys2Proof.Machine
end

section
/-! SUPPORT. The lists of set_fn calls paint the patterns of the rules: FINDER (44_patterns.md R202 to R205), TIMING
(R206, R207), ALIGN (R208 to R210), RSVFMT and FORMAT (R211 to R214). -/

namespace Sys2Proof.Machine

open Sys2Proof.Claims

/-! ### The symbol's sides -/

/-- MODULE_COUNT of the four versions (R120). -/
def symbolSides : List Nat := [25, 29, 33, 37]

theorem symbolSides_bounds {m : Nat} (h : m ∈ symbolSides) : 25 ≤ m ∧ m ≤ 37 := by
  revert m
  decide

/-- With a version selected SYMINFO is one of the table's four rows (R26). -/
theorem syminfo_of_hasVersion {s : State} (h : HasVersion s) : ∃ v ∈ [2, 3, 4, 5], s.syminfo = symRow v := by
  obtain ⟨hrow, hver⟩ := h
  simp only [SymInfo.consistent, Bool.or_eq_true, beq_iff_eq, or_assoc] at hrow
  rcases hrow with e | e | e | e | e
  · exact absurd (congrArg SymInfo.version e) hver
  · exact ⟨2, by decide, e⟩
  · exact ⟨3, by decide, e⟩
  · exact ⟨4, by decide, e⟩
  · exact ⟨5, by decide, e⟩

theorem side_mem_symbolSides {s : State} (h : HasVersion s) : s.side ∈ symbolSides := by
  obtain ⟨v, hv, e⟩ := syminfo_of_hasVersion h
  rw [State.side, e]
  clear e
  revert v
  decide

/-! ### Boxes around a centre -/

theorem mem_offsets {k : Nat} {x : Int} : x ∈ offsets k ↔ x.natAbs ≤ k := by
  have hmem : x ∈ offsets k ↔ ∃ i ≤ 2 * k, (i : Int) - k = x := by simp [offsets]
  rw [hmem]
  constructor
  · rintro ⟨i, hi, rfl⟩
    omega
  · intro h
    exact ⟨(x + k).toNat, by omega, by omega⟩

theorem mem_boxOffsets {k : Nat} {d : Int × Int} : d ∈ boxOffsets k ↔ cheb d.1 d.2 ≤ k := by
  obtain ⟨x, y⟩ := d
  simp [boxOffsets, mem_offsets, cheb]

/-- The Chebyshev distance of a cell from a centre is `cellDist` (R9). -/
theorem cheb_sub (r c r' c' : Nat) : cheb ((r : Int) - r') ((c : Int) - c') = cellDist r c r' c' := by
  simp only [cheb, cellDist, Claims.dist]
  omega

theorem cellDist_le_iff {r c r' c' k : Nat} :
    cellDist r c r' c' ≤ k ↔ (r ≤ r' + k ∧ r' ≤ r + k) ∧ c ≤ c' + k ∧ c' ≤ c + k := by
  have hdist : ∀ a b, Claims.dist a b ≤ k ↔ a ≤ b + k ∧ b ≤ a + k := by
    intro a b
    simp only [Claims.dist]
    omega
  rw [cellDist, max_le_iff, hdist, hdist]

/-! ### FINDER -/

theorem mem_finderStamps {sep : Separators} {f : Int × Int} {p : Stamp} :
    p ∈ finderStamps sep f ↔
      (cheb (p.r - f.1) (p.c - f.2) ≤ 3 ∧ p.val = finderVal (cheb (p.r - f.1) (p.c - f.2))) ∨
      (cheb (p.r - f.1) (p.c - f.2) = 4 ∧ sep = .reserved ∧ p.val = false) := by
  obtain ⟨r, c, v⟩ := p
  simp only [finderStamps, List.mem_filterMap, mem_boxOffsets]
  constructor
  · rintro ⟨d, hd, hp⟩
    split_ifs at hp with h3 hsep <;> simp only [Option.some.injEq, Stamp.mk.injEq] at hp
    · obtain ⟨rfl, rfl, rfl⟩ := hp
      simp [h3]
    · obtain ⟨rfl, rfl, rfl⟩ := hp
      have h4 : cheb d.1 d.2 = 4 := by omega
      simp [h4, hsep]
  · intro h
    refine ⟨(r - f.1, c - f.2), by dsimp only at h ⊢; omega, ?_⟩
    rcases h with ⟨h3, rfl⟩ | ⟨h4, hsep, rfl⟩
    · simp [h3]
    · simp [h4, hsep]

/-- Two centres with rows or columns more than 8 apart have no cell within distance 4 of both. -/
theorem four_lt_cellDist {r c r1 c1 r2 c2 : Nat} (hapart : r1 + 8 < r2 ∨ c1 + 8 < c2 ∨ c2 + 8 < c1)
    (h : cellDist r c r1 c1 ≤ 4) : 4 < cellDist r c r2 c2 := by
  rw [cellDist_le_iff] at h
  rw [← not_le, cellDist_le_iff]
  omega

/-- A cell is within distance 4 of at most one centre, so its distance to the nearest is its distance to that (R202). -/
theorem exists_centre_iff {m r c d : Nat} (hm : 25 ≤ m) (hd : d ≤ 4) :
    (∃ f ∈ finderCentres m, cheb ((r : Int) - f.1) ((c : Int) - f.2) = d) ↔ finderDist m r c = d := by
  have htl := cheb_sub r c 3 3
  have htr := cheb_sub r c 3 (m - 4)
  have hbl := cheb_sub r c (m - 4) 3
  have h12 : _ → 4 < cellDist r c 3 (m - 4) := four_lt_cellDist (r1 := 3) (c1 := 3) (by omega)
  have h13 : _ → 4 < cellDist r c (m - 4) 3 := four_lt_cellDist (r1 := 3) (c1 := 3) (by omega)
  have h23 : _ → 4 < cellDist r c (m - 4) 3 := four_lt_cellDist (r1 := 3) (c1 := m - 4) (by omega)
  rw [Nat.cast_sub (by omega)] at htr hbl
  push_cast at htl htr hbl
  simp only [finderCentres, List.mem_cons, List.not_mem_nil, or_false, exists_eq_or_imp, exists_eq_left, finderDist,
    htl, htr, hbl]
  omega

theorem finderPattern_eq_some_iff {sep : Separators} {m r c : Nat} {v : Bool} :
    finderPattern sep m r c = some v ↔
      (finderDist m r c ≤ 3 ∧ v = finderVal (finderDist m r c)) ∨
      (finderDist m r c = 4 ∧ r < m ∧ c < m ∧ sep = .reserved ∧ v = false) := by
  rw [finderPattern, finderVal]
  split_ifs with h3 h4
  · have : finderDist m r c ≠ 4 := by omega
    cases v <;> simp [h3, this]
  · cases v <;> simp [h4]
  · simp only [h3, false_and, false_or, false_iff]
    tauto

theorem finderDist_lt {m r c : Nat} (hm : 25 ≤ m) (h : finderDist m r c ≤ 3) : r < m ∧ c < m := by
  simp only [finderDist, min_le_iff, cellDist_le_iff] at h
  omega

theorem paints_finder {m : Nat} (hm : 25 ≤ m) (sep : Separators) :
    Paints m ((finderCentres m).flatMap (finderStamps sep)) (finderPattern sep m) := by
  intro r c v
  rw [finderPattern_eq_some_iff]
  simp only [List.mem_flatMap, mem_finderStamps]
  constructor
  · rintro ⟨hr, hc, f, hf, ⟨h3, hv⟩ | ⟨h4, hsep, hv⟩⟩
    · have hdist := (exists_centre_iff hm (h3.trans (by decide))).1 ⟨f, hf, rfl⟩
      exact .inl (by rw [hdist]; exact ⟨h3, hv⟩)
    · exact .inr ⟨(exists_centre_iff hm le_rfl).1 ⟨f, hf, h4⟩, hr, hc, hsep, hv⟩
  · rintro (⟨h3, hv⟩ | ⟨h4, hr, hc, hsep, hv⟩)
    · obtain ⟨f, hf, hdist⟩ := (exists_centre_iff (r := r) (c := c) hm (by omega)).2 rfl
      obtain ⟨hr, hc⟩ := finderDist_lt hm h3
      exact ⟨hr, hc, f, hf, .inl (by rw [hdist]; exact ⟨h3, hv⟩)⟩
    · obtain ⟨f, hf, hdist⟩ := (exists_centre_iff hm le_rfl).2 h4
      exact ⟨hr, hc, f, hf, .inr ⟨hdist, hsep, hv⟩⟩

/-! ### TIMING -/

/-- The set_fn calls of the two timing lines, in order (R206, R207). -/
def timingStamps (m : Nat) : List Stamp :=
  (List.range' 8 (m - 16)).flatMap (fun i : Nat => [⟨6, i, i % 2 == 0⟩, ⟨i, 6, i % 2 == 0⟩])

theorem timingLines_eq_stampFree (m : Nat) (mem : Memory) :
    timingLines m mem = (timingStamps m).foldl (stampFree m) mem := by
  rw [timingStamps, List.foldl_flatMap]
  rfl

theorem mem_timingStamps {m r c : Nat} {v : Bool} (hm : 25 ≤ m) : (⟨r, c, v⟩ : Stamp) ∈ timingStamps m ↔
    (r = 6 ∧ 8 ≤ c ∧ c + 9 ≤ m ∧ v = decide (c % 2 = 0)) ∨ (c = 6 ∧ 8 ≤ r ∧ r + 9 ≤ m ∧ v = decide (r % 2 = 0)) := by
  simp only [timingStamps, List.mem_flatMap, List.mem_range'_1, List.mem_cons, List.not_mem_nil, or_false,
    Stamp.mk.injEq]
  constructor
  · rintro ⟨i, hi, ⟨hr, hc, rfl⟩ | ⟨hr, hc, rfl⟩⟩
    · obtain rfl : c = i := by omega
      exact .inl ⟨by omega, by omega, by omega, rfl⟩
    · obtain rfl : r = i := by omega
      exact .inr ⟨by omega, by omega, by omega, rfl⟩
  · rintro (⟨rfl, h8, h9, rfl⟩ | ⟨rfl, h8, h9, rfl⟩)
    · exact ⟨c, by omega, .inl ⟨rfl, rfl, rfl⟩⟩
    · exact ⟨r, by omega, .inr ⟨rfl, rfl, rfl⟩⟩

theorem timingPattern_eq_some_iff {m r c : Nat} {v : Bool} : timingPattern m r c = some v ↔
    (r = 6 ∧ 8 ≤ c ∧ c + 9 ≤ m ∧ v = decide (c % 2 = 0)) ∨ (c = 6 ∧ 8 ≤ r ∧ r + 9 ≤ m ∧ v = decide (r % 2 = 0)) := by
  rw [timingPattern]
  split_ifs with hrow hcol
  · have hc : c ≠ 6 := by omega
    simp [hrow, hc, eq_comm]
  · have hr : r ≠ 6 := by omega
    simp [hcol, hr, eq_comm]
  · simp only [false_iff]
    tauto

theorem paints_timing {m : Nat} (hm : 25 ≤ m) : Paints m (timingStamps m) (timingPattern m) := by
  intro r c v
  rw [mem_timingStamps hm, timingPattern_eq_some_iff]
  exact ⟨fun h => h.2.2, fun h => ⟨by omega, by omega, h⟩⟩

/-! ### ALIGN -/

theorem overlapsFinder_iff (m ar ac : Nat) : overlapsFinder m ar ac = true ↔
    ∃ f ∈ finderCentres m, ((ar : Int) - f.1).natAbs ≤ 6 ∧ ((ac : Int) - f.2).natAbs ≤ 6 := by
  simp [overlapsFinder]

/-- Of the four candidates only the one away from the finders is stamped (R209). -/
theorem alignStamps_eq {m : Nat} (hm : 25 ≤ m) : alignStamps m = alignMotif (m - 7) (m - 7) := by
  have hover : ∀ ar ac, overlapsFinder m ar ac = true ↔ _ := overlapsFinder_iff m
  simp only [finderCentres, List.mem_cons, List.not_mem_nil, or_false, exists_eq_or_imp, exists_eq_left] at hover
  have h1 : overlapsFinder m 6 6 = true := by rw [hover]; omega
  have h2 : overlapsFinder m 6 (m - 7) = true := by rw [hover]; omega
  have h3 : overlapsFinder m (m - 7) 6 = true := by rw [hover]; omega
  have h4 : overlapsFinder m (m - 7) (m - 7) = false := by rw [Bool.eq_false_iff, ne_eq, hover]; omega
  simp [alignStamps, alignCandidates, alignPos, h1, h2, h3, h4]

theorem mem_alignMotif {ar ac : Nat} {p : Stamp} : p ∈ alignMotif ar ac ↔
    cheb (p.r - ar) (p.c - ac) ≤ 2 ∧ p.val = (cheb (p.r - ar) (p.c - ac) != 1) := by
  obtain ⟨r, c, v⟩ := p
  simp only [alignMotif, List.mem_map, mem_boxOffsets, Stamp.mk.injEq]
  constructor
  · rintro ⟨d, hd, rfl, rfl, rfl⟩
    simpa using hd
  · rintro ⟨h2, rfl⟩
    exact ⟨(r - ar, c - ac), h2, by omega, by omega, rfl⟩

theorem paints_align {m : Nat} (hm : 25 ≤ m) : Paints m (alignStamps m) (alignPattern m) := by
  intro r c v
  rw [alignStamps_eq hm, mem_alignMotif, alignPattern]
  simp only [cheb_sub]
  split_ifs with h2
  · have hlt : r < m ∧ c < m := by
      rw [cellDist_le_iff] at h2
      omega
    cases v <;> simp [h2, hlt]
  · simp [h2]

end Sys2Proof.Machine
end

section
/-! SUPPORT. The stamps of RSVFMT and FORMAT paint the format pattern (44_patterns.md R211 to R214): both are one value
for each cell of a list of 31 different cells, DARK, FMT_A and FMT_B. -/

namespace Sys2Proof.Machine

open Sys2Proof.Claims

/-- A search by key finds an entry exactly when it is listed, if the keys are different. -/
theorem find?_key_eq_some_iff {α β : Type} [BEq α] [LawfulBEq α] {l : List (α × β)} (h : (l.map Prod.fst).Nodup)
    {k : α} {v : β} : (l.find? (fun e => e.1 == k)).map (fun e => e.2) = some v ↔ (k, v) ∈ l := by
  induction l with
  | nil => simp
  | cons e l ih =>
    obtain ⟨k', v'⟩ := e
    obtain ⟨hnot, hl⟩ := List.nodup_cons.1 h
    by_cases hk : k' = k
    · subst hk
      have hfree : (k', v) ∉ l := fun hmem => hnot (List.mem_map.2 ⟨_, hmem, rfl⟩)
      simp [hfree, eq_comm]
    · have hk' : ¬ k = k' := fun e => hk e.symm
      rw [List.find?_cons_of_neg (by simpa using hk), ih hl]
      simp [hk']

/-- DARK, FMT_A and FMT_B with a value for each (R211). -/
def formatEntries (bits : List Bool) (dark : Bool) (m : Nat) : List ((Nat × Nat) × Bool) :=
  ((m - 8, 8), dark) :: (fmtACells.zip bits ++ (fmtBCells m).zip bits)

/-- The 31 cells of R211. -/
def formatCells (m : Nat) : List (Nat × Nat) := (m - 8, 8) :: (fmtACells ++ fmtBCells m)

theorem formatCells_nodup {m : Nat} (hm : m ∈ symbolSides) : (formatCells m).Nodup := by
  revert m
  decide

/-- The 15 bits of a word, bit 0 first. -/
def wordBits (word : BitVec 15) : List Bool := (List.range 15).map word.getLsbD

theorem formatEntries_keys (bits : List Bool) (hbits : bits.length = 15) (dark : Bool) (m : Nat) :
    (formatEntries bits dark m).map Prod.fst = formatCells m := by
  simp [formatEntries, formatCells, List.map_fst_zip, fmtACells, fmtBCells, hbits]

theorem formatPattern_eq_some_iff {m : Nat} (hm : m ∈ symbolSides) {bits : List Bool} (hbits : bits.length = 15)
    {dark : Bool} {r c : Nat} {v : Bool} :
    formatPattern bits dark m r c = some v ↔ ((r, c), v) ∈ formatEntries bits dark m := by
  have hkeys := formatEntries_keys bits hbits dark m
  rw [← find?_key_eq_some_iff (hkeys ▸ formatCells_nodup hm), formatEntries, formatPattern, List.find?_cons]
  by_cases hdark : (r, c) = (m - 8, 8)
  · simp [hdark]
  · have : ((m - 8, 8) == (r, c)) = false := beq_false_of_ne (Ne.symm hdark)
    simp [hdark, this]

/-- The set_fn call for a cell of the grid. -/
def cellStamp (rc : Nat × Nat) (v : Bool) : Stamp := ⟨rc.1, rc.2, v⟩

theorem cellStamp_inj {rc rc' : Nat × Nat} {v v' : Bool} : cellStamp rc v = cellStamp rc' v' ↔ rc = rc' ∧ v = v' := by
  simp [cellStamp, Prod.ext_iff, and_assoc]

/-- The model stamps the two runs side by side, from formulas for the cells; these are the listed cells (R211). -/
theorem fmtStamps_eq {m : Nat} (hm : m ∈ symbolSides) (word : BitVec 15) (dark : Bool) : fmtStamps m word dark =
    (List.range 15).flatMap (fun i => [cellStamp (fmtACells.getD i (0, 0)) (word.getLsbD i),
      cellStamp ((fmtBCells m).getD i (0, 0)) (word.getLsbD i)]) ++ [cellStamp (m - 8, 8) dark] := by
  simp only [symbolSides, List.mem_cons, List.not_mem_nil, or_false] at hm
  rcases hm with rfl | rfl | rfl | rfl <;> rfl

theorem formatEntries_eq (word : BitVec 15) (dark : Bool) (m : Nat) : formatEntries (wordBits word) dark m =
    ((m - 8, 8), dark) :: ((List.range 15).map (fun i => (fmtACells.getD i (0, 0), word.getLsbD i)) ++
      (List.range 15).map (fun i => ((fmtBCells m).getD i (0, 0), word.getLsbD i))) := rfl

theorem mem_fmtStamps {m : Nat} (hm : m ∈ symbolSides) (word : BitVec 15) (dark : Bool) {rc : Nat × Nat} {v : Bool} :
    cellStamp rc v ∈ fmtStamps m word dark ↔ (rc, v) ∈ formatEntries (wordBits word) dark m := by
  simp only [fmtStamps_eq hm, formatEntries_eq, List.mem_append, List.mem_flatMap, List.mem_map, List.mem_cons,
    List.not_mem_nil, or_false, cellStamp_inj, Prod.mk.injEq, and_or_left, exists_or, eq_comm (b := rc),
    eq_comm (b := v)]
  exact or_comm

theorem formatCells_lt {m : Nat} (hm : m ∈ symbolSides) : ∀ rc ∈ formatCells m, rc.1 < m ∧ rc.2 < m := by
  revert m
  decide

theorem paints_format {m : Nat} (hm : m ∈ symbolSides) (word : BitVec 15) (dark : Bool) :
    Paints m (fmtStamps m word dark) (formatPattern (wordBits word) dark m) := by
  intro r c v
  have hbits : (wordBits word).length = 15 := rfl
  rw [formatPattern_eq_some_iff hm hbits]
  constructor
  · rintro ⟨-, -, hstamp⟩
    exact (mem_fmtStamps hm word dark (rc := (r, c))).1 hstamp
  · intro hentry
    have hcell : (r, c) ∈ formatCells m :=
      formatEntries_keys _ hbits dark m ▸ List.mem_map.2 ⟨_, hentry, rfl⟩
    obtain ⟨hr, hc⟩ := formatCells_lt hm _ hcell
    exact ⟨hr, hc, (mem_fmtStamps hm word dark).2 hentry⟩

end Sys2Proof.Machine
end

section
/-! SUPPORT. What the pattern commands answer: a completion that writes memory only, by the pattern's stamps. -/

namespace Sys2Proof.Machine

open Sys2Proof.Claims

theorem complete_done_withMem (s : State) (mem : Memory) :
    (done { s with mem := mem }).complete = { completedOk s with mem := mem } := rfl

theorem exec_cleargrid (s : State) : exec .cleargrid s = .next { completedOk s with mem := clearGrid s.mem } := by
  rw [← complete_done_withMem]
  rfl

section
variable {s : State} (h : HasVersion s)
include h

theorem exec_finder : exec .finder s = .next { completedOk s with
    mem := stampAll s.side s.mem ((finderCentres s.side).flatMap (finderStamps s.params.separators)) } :=
  congrArg completes (finderBody_ok h.2)

theorem exec_timing : exec .timing s = .next { completedOk s with mem := timingLines s.side s.mem } :=
  congrArg completes (timingBody_ok h.2)

theorem exec_align : exec .align s = .next { completedOk s with mem := stampAll s.side s.mem (alignStamps s.side) } :=
  congrArg completes (alignBody_ok h.2)

theorem exec_rsvfmt : exec .rsvfmt s =
    .next { completedOk s with mem := stampAll s.side s.mem (fmtStamps s.side 0#15 false) } :=
  congrArg completes (rsvfmtBody_ok h.2)

theorem exec_format : exec .format s =
    .next { completedOk s with mem := stampAll s.side s.mem (fmtStamps s.side formatWord true) } :=
  congrArg completes (formatBody_ok h.2)

theorem side_bounds : 25 ≤ s.side ∧ s.side ≤ 37 := symbolSides_bounds (side_mem_symbolSides h)

end

end Sys2Proof.Machine
end

section
/-! The statements of the function patterns' family, settled. -/

namespace Sys2Proof.Machine

open Sys2Proof.Claims

/-- Settles O28: the 1369 stores are to the block's cells, each leaves its cell clear, and no later one sets it. -/
theorem cleargridClearsEveryCell : Obligations.CleargridClearsEveryCell := by
  unfold Obligations.CleargridClearsEveryCell
  refine ⟨fun s => ?_, decode_encode .cleargrid⟩
  have hcleared := gridCleared_clearGrid s.mem
  have hexec := exec_cleargrid s
  generalize clearGrid s.mem = mem at hcleared hexec
  exact ⟨_, hexec, rfl, hcleared, fun _ => arrayByte_of_gridCleared hcleared⟩

/-- Settles O29: the centres are so far apart that no finder or separator meets another. -/
theorem finderStampsFindersAndSeparators : Obligations.FinderStampsFindersAndSeparators := by
  unfold Obligations.FinderStampsFindersAndSeparators
  intro s hv
  obtain ⟨h25, h37⟩ := side_bounds hv
  exact ⟨_, exec_finder hv, rfl, stamped_stampAll h37 (paints_finder h25 _) s.mem⟩

/-- Settles O30: each timing cell is reached once, so it is skipped exactly when it was a function cell before. -/
theorem timingStampsTheFreeTimingCells : Obligations.TimingStampsTheFreeTimingCells := by
  unfold Obligations.TimingStampsTheFreeTimingCells
  intro s hv
  obtain ⟨h25, h37⟩ := side_bounds hv
  refine ⟨_, exec_timing hv, rfl, ?_⟩
  rw [timingLines_eq_stampFree]
  exact stamped_stampFree h37 (paints_timing h25) s.mem

/-- Settles O31: the other three candidates overlap a finder. -/
theorem alignStampsOneMotif : Obligations.AlignStampsOneMotif := by
  unfold Obligations.AlignStampsOneMotif
  intro s hv
  obtain ⟨h25, h37⟩ := side_bounds hv
  exact ⟨_, exec_align hv, rfl, stamped_stampAll h37 (paints_align h25) s.mem⟩

/-- Settles O32: RSVFMT is the format stamp of the word 0 with DARK light. -/
theorem rsvfmtReservesTheFormatCells : Obligations.RsvfmtReservesTheFormatCells := by
  unfold Obligations.RsvfmtReservesTheFormatCells
  intro s hv
  exact ⟨_, exec_rsvfmt hv, rfl,
    stamped_stampAll (side_bounds hv).2 (paints_format (side_mem_symbolSides hv) 0#15 false) s.mem⟩

/-- Settles O33: no two of the 31 cells are the same, so each keeps the bit it is given. -/
theorem formatStampsTheFormatWord : Obligations.FormatStampsTheFormatWord := by
  unfold Obligations.FormatStampsTheFormatWord
  intro s hv
  exact ⟨_, exec_format hv, rfl,
    stamped_stampAll (side_bounds hv).2 (paints_format (side_mem_symbolSides hv) formatWord true) s.mem⟩

end Sys2Proof.Machine
end

section
/-! SUPPORT. How many cells the patterns of R215 have. The function cells that RSVFMT leaves are a disjoint union of
rectangles, so their number is the sum of the areas: three finders, two timing lines, the alignment motif and the 31
format cells. -/

namespace Sys2Proof.Machine

open Sys2Proof.Claims

/-! ### Disjoint rectangles -/

/-- Rows top to bottom-1, columns left to right-1. -/
structure Rect where
  top    : Nat
  bottom : Nat
  left   : Nat
  right  : Nat

def Rect.cells (R : Rect) : Finset (Nat × Nat) := Finset.Ico R.top R.bottom ×ˢ Finset.Ico R.left R.right

def Rect.area (R : Rect) : Nat := (R.bottom - R.top) * (R.right - R.left)

/-- One rectangle ends before the other begins, in rows or in columns. -/
def Rect.apart (R S : Rect) : Bool :=
  decide (R.bottom ≤ S.top) || decide (S.bottom ≤ R.top) || decide (R.right ≤ S.left) || decide (S.right ≤ R.left)

theorem Rect.mem_cells {R : Rect} {rc : Nat × Nat} :
    rc ∈ R.cells ↔ (R.top ≤ rc.1 ∧ rc.1 < R.bottom) ∧ R.left ≤ rc.2 ∧ rc.2 < R.right := by
  simp [Rect.cells]

theorem Rect.card_cells (R : Rect) : R.cells.card = R.area := by simp [Rect.cells, Rect.area]

theorem Rect.disjoint_of_apart {R S : Rect} (h : R.apart S = true) : Disjoint R.cells S.cells := by
  rw [Finset.disjoint_left]
  intro rc hR hS
  rw [Rect.mem_cells] at hR hS
  simp only [Rect.apart, Bool.or_eq_true, decide_eq_true_eq] at h
  omega

/-- All cells of a list of rectangles. -/
def cellsOf (rects : List Rect) : Finset (Nat × Nat) := rects.foldr (fun R S => R.cells ∪ S) ∅

theorem mem_cellsOf {rects : List Rect} {rc : Nat × Nat} : rc ∈ cellsOf rects ↔ ∃ R ∈ rects, rc ∈ R.cells := by
  induction rects with
  | nil => simp [cellsOf]
  | cons R rects ih =>
    rw [cellsOf, List.foldr_cons, Finset.mem_union, ← cellsOf, ih]
    simp

theorem card_cellsOf {rects : List Rect} (h : rects.Pairwise (fun R S => R.apart S = true)) :
    (cellsOf rects).card = (rects.map Rect.area).sum := by
  induction rects with
  | nil => rfl
  | cons R rects ih =>
    obtain ⟨hR, hrects⟩ := List.pairwise_cons.1 h
    have hdisj : Disjoint R.cells (cellsOf rects) := by
      rw [Finset.disjoint_right]
      intro rc hrc
      obtain ⟨S, hS, hmem⟩ := mem_cellsOf.1 hrc
      exact Finset.disjoint_right.1 (Rect.disjoint_of_apart (hR S hS)) hmem
    rw [cellsOf, List.foldr_cons, ← cellsOf, Finset.card_union_of_disjoint hdisj, Rect.card_cells, ih hrects]
    rfl

theorem countP_range_eq_sum (p : Nat → Bool) (m : Nat) :
    (List.range m).countP p = ∑ i ∈ Finset.range m, if p i = true then 1 else 0 := by
  induction m with
  | zero => rfl
  | succ m ih => rw [List.range_succ, List.countP_append, ih, Finset.sum_range_succ, List.countP_singleton]

/-- Counting the square row by row is counting the set of its function cells. -/
theorem functionCells_eq_card {mem : Memory} {m : Nat} {cells : Finset (Nat × Nat)}
    (hlt : ∀ rc ∈ cells, rc.1 < m ∧ rc.2 < m)
    (h : ∀ r c, r < m → c < m → (mem.func r c = true ↔ (r, c) ∈ cells)) : functionCells mem m = cells.card := by
  have hcells : cells = (Finset.range m ×ˢ Finset.range m).filter (fun rc => mem.func rc.1 rc.2 = true) := by
    ext ⟨r, c⟩
    simp only [Finset.mem_filter, Finset.mem_product, Finset.mem_range]
    constructor
    · intro hrc
      obtain ⟨hr, hc⟩ := hlt _ hrc
      exact ⟨⟨hr, hc⟩, (h r c hr hc).2 hrc⟩
    · rintro ⟨⟨hr, hc⟩, hfunc⟩
      exact (h r c hr hc).1 hfunc
  rw [hcells, Finset.card_filter, Finset.sum_product, functionCells]
  simp only [countP_range_eq_sum]
  rfl

/-! ### The patterns as rectangles -/

/-- The three finders, with their separators when reserved, inside the symbol (R202 to R204). -/
def finderRects (sep : Separators) (m : Nat) : List Rect :=
  let k := if sep = .reserved then 8 else 7
  [⟨0, k, 0, k⟩, ⟨0, k, m - k, m⟩, ⟨m - k, m, 0, k⟩]

/-- The two timing lines (R206). -/
def timingRects (m : Nat) : List Rect := [⟨6, 7, 8, m - 8⟩, ⟨8, m - 8, 6, 7⟩]

/-- The alignment motif (R210). -/
def alignRects (m : Nat) : List Rect := [⟨m - 9, m - 4, m - 9, m - 4⟩]

/-- The 31 format cells, one by one (R211). -/
def formatRects (m : Nat) : List Rect := (formatCells m).map (fun rc => ⟨rc.1, rc.1 + 1, rc.2, rc.2 + 1⟩)

/-- What FINDER, TIMING, ALIGN and RSVFMT make function cells (R215). -/
def functionRects (sep : Separators) (m : Nat) : List Rect :=
  formatRects m ++ (alignRects m ++ (timingRects m ++ finderRects sep m))

theorem cellsOf_append (as bs : List Rect) : cellsOf (as ++ bs) = cellsOf as ∪ cellsOf bs := by
  ext rc
  simp only [Finset.mem_union, mem_cellsOf, List.mem_append, or_and_right, exists_or]

/-- The cells of the finders and separators are those within distance 4 or 3 of a centre, inside the symbol. -/
theorem finderPattern_isSome_iff {m : Nat} (hm : 25 ≤ m) (sep : Separators) (r c : Nat) :
    (finderPattern sep m r c).isSome = true ↔ (r, c) ∈ cellsOf (finderRects sep m) := by
  have hin : finderDist m r c ≤ 3 → r < m ∧ c < m := finderDist_lt hm
  have hsome : (finderPattern sep m r c).isSome = true ↔
      finderDist m r c ≤ (if sep = .reserved then 4 else 3) ∧ r < m ∧ c < m := by
    cases sep <;> simp only [finderPattern, if_true, and_true, reduceCtorEq, and_false, if_false]
    all_goals
      split_ifs <;> simp only [Option.isSome_some, Option.isSome_none, true_iff, false_iff, Bool.false_eq_true]
      all_goals omega
  have hdist : ∀ k, finderDist m r c ≤ k ↔ _ := fun k => min_le_iff.trans (or_congr_right min_le_iff)
  simp only [cellDist_le_iff] at hdist
  rw [hsome, hdist]
  simp only [mem_cellsOf, finderRects, List.mem_cons, List.not_mem_nil, or_false, exists_eq_or_imp, exists_eq_left,
    Rect.mem_cells]
  cases sep <;> simp only [if_true, reduceCtorEq, if_false] <;> omega

theorem timingPattern_isSome_iff {m : Nat} (r c : Nat) :
    (timingPattern m r c).isSome = true ↔ (r, c) ∈ cellsOf (timingRects m) := by
  have hcells : (r, c) ∈ cellsOf (timingRects m) ↔ (r = 6 ∧ 8 ≤ c ∧ c + 9 ≤ m) ∨ (c = 6 ∧ 8 ≤ r ∧ r + 9 ≤ m) := by
    simp only [mem_cellsOf, timingRects, List.mem_cons, List.not_mem_nil, or_false, exists_eq_or_imp, exists_eq_left,
      Rect.mem_cells]
    omega
  rw [hcells, timingPattern]
  split_ifs with hrow hcol
  · simp [hrow]
  · simp [hcol]
  · simp [hrow, hcol]

theorem alignPattern_isSome_iff {m : Nat} (hm : 25 ≤ m) (r c : Nat) :
    (alignPattern m r c).isSome = true ↔ (r, c) ∈ cellsOf (alignRects m) := by
  have hcells : (r, c) ∈ cellsOf (alignRects m) ↔ cellDist r c (m - 7) (m - 7) ≤ 2 := by
    simp only [mem_cellsOf, alignRects, List.mem_cons, List.not_mem_nil, or_false, exists_eq_left, Rect.mem_cells,
      cellDist_le_iff]
    omega
  rw [hcells, alignPattern]
  split_ifs with h2
  · simp [h2]
  · simp [h2]

theorem formatPattern_isSome_iff {m : Nat} (hm : m ∈ symbolSides) {bits : List Bool} (hbits : bits.length = 15)
    (dark : Bool) (r c : Nat) : (formatPattern bits dark m r c).isSome = true ↔ (r, c) ∈ cellsOf (formatRects m) := by
  have hcells : (r, c) ∈ cellsOf (formatRects m) ↔ (r, c) ∈ formatCells m := by
    simp only [mem_cellsOf, formatRects, List.mem_map, Rect.mem_cells]
    constructor
    · rintro ⟨R, ⟨⟨i, j⟩, hij, rfl⟩, hr, hc⟩
      obtain ⟨rfl, rfl⟩ : r = i ∧ c = j := by dsimp only at hr hc; omega
      exact hij
    · intro hrc
      exact ⟨_, ⟨_, hrc, rfl⟩, by dsimp only; omega, by dsimp only; omega⟩
  rw [hcells, ← formatEntries_keys bits hbits dark m, Option.isSome_iff_exists]
  simp only [formatPattern_eq_some_iff hm hbits, List.mem_map]
  constructor
  · rintro ⟨v, hv⟩
    exact ⟨_, hv, rfl⟩
  · rintro ⟨⟨rc, v⟩, hv, rfl⟩
    exact ⟨v, hv⟩

theorem mem_functionRects_iff {sep : Separators} {m : Nat} (hm : m ∈ symbolSides) (r c : Nat) :
    (r, c) ∈ cellsOf (functionRects sep m) ↔
      (formatPattern (List.replicate 15 false) false m r c).isSome = true ∨ (alignPattern m r c).isSome = true ∨
      (timingPattern m r c).isSome = true ∨ (finderPattern sep m r c).isSome = true := by
  obtain ⟨h25, -⟩ := symbolSides_bounds hm
  have hbits : (List.replicate 15 false).length = 15 := rfl
  rw [formatPattern_isSome_iff hm hbits, alignPattern_isSome_iff h25, timingPattern_isSome_iff,
    finderPattern_isSome_iff h25]
  simp only [functionRects, cellsOf_append, Finset.mem_union]

/-! ### The counts -/

theorem functionRects_apart (sep : Separators) {m : Nat} (hm : m ∈ symbolSides) :
    (functionRects sep m).Pairwise (fun R S => R.apart S = true) := by
  revert m
  cases sep <;> decide +kernel

theorem functionRects_lt (sep : Separators) {m : Nat} (hm : m ∈ symbolSides) :
    ∀ R ∈ functionRects sep m, R.bottom ≤ m ∧ R.right ≤ m := by
  revert m
  cases sep <;> decide +kernel

theorem functionRects_area (sep : Separators) {m : Nat} (hm : m ∈ symbolSides) :
    ((functionRects sep m).map Rect.area).sum = (if sep = .reserved then 192 else 147) + 2 * (m - 16) + 25 + 31 := by
  revert m
  cases sep <;> decide +kernel

end Sys2Proof.Machine
end

section
/-! SUPPORT. The function cells after CLEARGRID, FINDER, TIMING, ALIGN and RSVFMT, and their number (R215). -/

namespace Sys2Proof.Machine

open Sys2Proof.Claims

theorem runAll_cons {i : Instr} {s t : State} (h : exec i s = .next t) (is : List Instr) :
    runAll (i :: is) s = runAll is t := by rw [runAll, h]

section
variable {s t : State} (h : OnlyMemory s t)
include h

theorem syminfo_of_onlyMemory : t.syminfo = s.syminfo := by
  rw [OnlyMemory] at h
  rw [h]
  rfl

theorem params_of_onlyMemory : t.params = s.params := by
  rw [OnlyMemory] at h
  rw [h]
  rfl

theorem hasVersion_of_onlyMemory (hv : HasVersion s) : HasVersion t := by
  rwa [HasVersion, syminfo_of_onlyMemory h]

end

/-- The completions of R215 leave the cells of their patterns as the function cells: TIMING skips only cells that are
function cells already. -/
theorem runAll_reserving_func {s : State} (hv : HasVersion s) :
    ∃ t, runAll [.cleargrid, .finder, .timing, .align, .rsvfmt] s = some t ∧
      ∀ r c, r < s.side → c < s.side →
        (t.mem.func r c = true ↔ (r, c) ∈ cellsOf (functionRects s.params.separators s.side)) := by
  have hm := side_mem_symbolSides hv
  obtain ⟨t0, e0, o0, hclear, -⟩ := cleargridClearsEveryCell.1 s
  have hv0 := hasVersion_of_onlyMemory o0 hv
  obtain ⟨t1, e1, o1, hfinder⟩ := finderStampsFindersAndSeparators t0 hv0
  have hv1 := hasVersion_of_onlyMemory o1 hv0
  obtain ⟨t2, e2, o2, htiming⟩ := timingStampsTheFreeTimingCells t1 hv1
  have hv2 := hasVersion_of_onlyMemory o2 hv1
  obtain ⟨t3, e3, o3, halign⟩ := alignStampsOneMotif t2 hv2
  have hv3 := hasVersion_of_onlyMemory o3 hv2
  obtain ⟨t4, e4, o4, hformat⟩ := rsvfmtReservesTheFormatCells t3 hv3
  have y0 := syminfo_of_onlyMemory o0
  have y1 := (syminfo_of_onlyMemory o1).trans y0
  have y2 := (syminfo_of_onlyMemory o2).trans y1
  have y3 := (syminfo_of_onlyMemory o3).trans y2
  rw [y0, params_of_onlyMemory o0] at hfinder
  rw [y1] at htiming
  rw [y2] at halign
  rw [y3] at hformat
  rw [State.side] at hm ⊢
  generalize s.syminfo.moduleCount.toNat = m at hm hfinder htiming halign hformat ⊢
  refine ⟨t4, ?_, fun r c hr hc => ?_⟩
  · rw [runAll_cons e0, runAll_cons e1, runAll_cons e2, runAll_cons e3, runAll_cons e4]
    rfl
  · obtain ⟨-, h37⟩ := symbolSides_bounds hm
    have hr37 : r < 37 := by omega
    have hc37 : c < 37 := by omega
    have hfree : t0.mem.func r c = false := (hclear.1 r c hr37 hc37).2
    have hskip : t2.mem.func r c = ((timingPattern m r c).isSome || t1.mem.func r c) := by
      rw [func_of_stamped htiming hr37 hc37]
      cases t1.mem.func r c <;> simp
    rw [func_of_stamped hformat hr37 hc37, func_of_stamped halign hr37 hc37, hskip,
      func_of_stamped hfinder hr37 hc37, hfree, mem_functionRects_iff hm]
    simp only [Bool.or_eq_true, Bool.false_eq_true, or_false]

theorem functionCells_eq_of_rects {sep : Separators} {m : Nat} (hm : m ∈ symbolSides) {mem : Memory}
    (h : ∀ r c, r < m → c < m → (mem.func r c = true ↔ (r, c) ∈ cellsOf (functionRects sep m))) :
    functionCells mem m = (if sep = .reserved then 192 else 147) + 2 * (m - 16) + 25 + 31 := by
  have hlt : ∀ rc ∈ cellsOf (functionRects sep m), rc.1 < m ∧ rc.2 < m := by
    intro rc hrc
    obtain ⟨R, hR, hmem⟩ := mem_cellsOf.1 hrc
    have hbounds := functionRects_lt sep hm R hR
    rw [Rect.mem_cells] at hmem
    omega
  rw [functionCells_eq_card hlt h, card_cellsOf (functionRects_apart sep hm), functionRects_area sep hm]

/-- The square of each version: function cells, codeword bits and 7 remainder cells (R215). -/
theorem side_mul_side {s : State} (hv : HasVersion s) :
    s.side * s.side = 192 + 2 * (s.side - 16) + 25 + 31 + (8 * s.totalCw + 7) := by
  obtain ⟨v, hmem, hrow⟩ := syminfo_of_hasVersion hv
  rw [State.side, State.totalCw, hrow]
  clear hrow
  revert v
  decide

end Sys2Proof.Machine
end

section
/-! The counts of the function patterns' family, settled. -/

namespace Sys2Proof.Machine

open Sys2Proof.Claims

/-- Settles O34: the function cells fill disjoint rectangles, whose areas add up to the numbers of R215. -/
theorem functionAndDataCellCounts : Obligations.FunctionAndDataCellCounts := by
  unfold Obligations.FunctionAndDataCellCounts
  intro s hv
  obtain ⟨t, hrun, hfunc⟩ := runAll_reserving_func hv
  have hcount := functionCells_eq_of_rects (side_mem_symbolSides hv) hfunc
  have hsquare := side_mul_side hv
  rw [State.totalCw] at hsquare
  refine ⟨t, hrun, fun hsep => ?_, fun hsep => ?_⟩
  · rw [hsep, if_pos rfl] at hcount
    exact ⟨hcount, by rw [State.side] at *; omega⟩
  · rw [hsep, if_neg (by decide)] at hcount
    rw [State.side] at *
    omega

end Sys2Proof.Machine
end

section
/-! SUPPORT. The zig-zag order as a table (45_placement.md R250): pair k is the pair of columns from `pairRight m k`,
and the list is the pairs one after the other, each row by row. -/

namespace Sys2Proof.Machine

/-! ### A list of equal blocks -/

theorem length_flatMap_blocks {α β : Type} {f : α → List β} {n : Nat} (hf : ∀ x, (f x).length = n) (l : List α) :
    (l.flatMap f).length = l.length * n := by
  simp [List.length_flatMap, hf]

/-- In a list of blocks of one length n, place n * k + j is place j of block k. -/
theorem getElem?_flatMap_blocks {α β : Type} {f : α → List β} {n : Nat} (hf : ∀ x, (f x).length = n) {j : Nat}
    (hj : j < n) (l : List α) (k : Nat) : (l.flatMap f)[n * k + j]? = l[k]?.bind (fun x => (f x)[j]?) := by
  induction l generalizing k with
  | nil => simp
  | cons x l ih =>
    rw [List.flatMap_cons]
    cases k with
    | zero => rw [List.getElem?_append_left (by rw [hf]; omega)]; simp
    | succ k =>
      rw [List.getElem?_append_right (by rw [hf, Nat.mul_succ]; omega), hf, List.getElem?_cons_succ, ← ih,
        Nat.mul_succ]
      congr 1
      omega

/-! ### One pair of columns -/

theorem pairCells_length (m right : Nat) (up : Bool) : (pairCells m right up).length = 2 * m := by
  rw [pairCells, length_flatMap_blocks (n := 2) (fun _ => rfl), List.length_range, Nat.mul_comm]

theorem pairCells_getElem? {m vert side : Nat} (right : Nat) (up : Bool) (hv : vert < m) (hs : side < 2) :
    (pairCells m right up)[2 * vert + side]? = some (if up then m - 1 - vert else vert, right - side) := by
  rw [pairCells, getElem?_flatMap_blocks (n := 2) (fun _ => rfl) hs, List.getElem?_range hv, Option.bind_some]
  obtain rfl | rfl : side = 0 ∨ side = 1 := by omega
  · rfl
  · rfl

/-- A pair visits every row in each of its two columns. -/
theorem mem_pairCells {m right r c : Nat} {up : Bool} :
    (r, c) ∈ pairCells m right up ↔ r < m ∧ (c = right ∨ c = right - 1) := by
  simp only [pairCells, List.mem_flatMap, List.mem_range, List.mem_cons, List.not_mem_nil, or_false, Prod.mk.injEq]
  constructor
  · rintro ⟨vert, hv, h⟩
    have hrow : (if up then m - 1 - vert else vert) < m := by split <;> omega
    rcases h with ⟨rfl, rfl⟩ | ⟨rfl, rfl⟩
    · exact ⟨hrow, .inl rfl⟩
    · exact ⟨hrow, .inr rfl⟩
  · rintro ⟨hr, hc⟩
    refine ⟨if up then m - 1 - r else r, by split <;> omega, ?_⟩
    have hrow : r = if up then m - 1 - (if up then m - 1 - r else r) else if up then m - 1 - r else r := by
      cases up
      · rfl
      · simp only [if_true]; omega
    exact hc.imp (⟨hrow, ·⟩) (⟨hrow, ·⟩)

/-! ### All pairs -/

/-- The right column of pair k: column 6 is redirected to 5, and the pairs after it are shifted with it. -/
def pairRight (m k : Nat) : Nat := if m - 1 - 2 * k ≤ 6 then m - 2 - 2 * k else m - 1 - 2 * k

theorem pairRight_zero {m : Nat} (h7 : 7 ≤ m) : (if m - 1 = 6 then 5 else m - 1) = pairRight m 0 := by
  rw [pairRight]
  split_ifs <;> omega

/-- The loop of R250 goes two columns to the left, and redirects column 6 to 5 when it comes to it. -/
theorem pairRight_succ {m : Nat} (hm : m % 2 = 1) (k : Nat) :
    (if pairRight m k - 2 = 6 then 5 else pairRight m k - 2) = pairRight m (k + 1) := by
  simp only [pairRight]
  split_ifs <;> omega

theorem loop_ends_iff {m k right : Nat} (hm : m % 2 = 1)
    (hright : (if right = 6 then 5 else right) = pairRight m k) : right < 1 ↔ (m - 1) / 2 ≤ k := by
  rw [pairRight] at hright
  split_ifs at hright <;> omega

/-- From the column of pair k the loop runs through the n pairs that are left. -/
theorem zigzagLoop_eq {m : Nat} (hm : m % 2 = 1) (n : Nat) {fuel right k : Nat} (hk : k + n = (m - 1) / 2)
    (hf : n < fuel) (hright : (if right = 6 then 5 else right) = pairRight m k) : zigzagLoop m fuel right k =
      (List.range' k n).flatMap (fun k => pairCells m (pairRight m k) (k % 2 == 0)) := by
  induction n generalizing fuel right k with
  | zero =>
    obtain ⟨fuel, rfl⟩ := Nat.exists_eq_add_one_of_ne_zero (Nat.ne_zero_of_lt hf)
    rw [zigzagLoop, if_pos ((loop_ends_iff hm hright).2 (by omega))]
    rfl
  | succ n ih =>
    obtain ⟨fuel, rfl⟩ := Nat.exists_eq_add_one_of_ne_zero (Nat.ne_zero_of_lt hf)
    rw [zigzagLoop, if_neg (mt (loop_ends_iff hm hright).1 (by omega)), hright]
    exact congrArg (_ ++ ·) (ih (by omega) (by omega) (pairRight_succ hm k))

theorem zigzag_eq_pairs {m : Nat} (hm : m % 2 = 1) (h7 : 7 ≤ m) :
    zigzag m = (List.range ((m - 1) / 2)).flatMap (fun k => pairCells m (pairRight m k) (k % 2 == 0)) := by
  rw [zigzag, zigzagLoop_eq hm ((m - 1) / 2) (Nat.zero_add _) (by omega) (pairRight_zero h7), List.range_eq_range']

section
variable {m : Nat} (hm : m % 2 = 1) (h7 : 7 ≤ m)
include hm h7

theorem zigzag_length : (zigzag m).length = (m - 1) / 2 * (2 * m) := by
  rw [zigzag_eq_pairs hm h7, length_flatMap_blocks (fun _ => pairCells_length m _ _), List.length_range]

theorem zigzag_getElem? {k vert side : Nat} (hk : k < (m - 1) / 2) (hv : vert < m) (hs : side < 2) :
    (zigzag m)[2 * m * k + 2 * vert + side]? =
      some (if k % 2 = 0 then m - 1 - vert else vert, pairRight m k - side) := by
  rw [zigzag_eq_pairs hm h7, Nat.add_assoc,
    getElem?_flatMap_blocks (fun _ => pairCells_length m _ _) (by omega), List.getElem?_range hk, Option.bind_some,
    pairCells_getElem? _ _ hv hs]
  simp only [beq_iff_eq]

/-- A column other than 6 is in the pair counted from the right edge, and past column 6 from the edge of column 5. -/
theorem mem_zigzag_iff (r c : Nat) : (r, c) ∈ zigzag m ↔ r < m ∧ c < m ∧ c ≠ 6 := by
  simp only [zigzag_eq_pairs hm h7, List.mem_flatMap, List.mem_range, mem_pairCells, pairRight]
  constructor
  · rintro ⟨k, hk, hr, hc⟩
    refine ⟨hr, ?_⟩
    split_ifs at hc <;> omega
  · rintro ⟨hr, hc, h6⟩
    by_cases h : 6 < c
    · exact ⟨(m - 1 - c) / 2, by omega, hr, by rw [if_neg (by omega)]; omega⟩
    · exact ⟨(m - 2 - c) / 2, by omega, hr, by rw [if_pos (by omega)]; omega⟩

/-- The list is as long as the set of its cells is large, so no cell is in it twice. -/
theorem zigzag_nodup : (zigzag m).Nodup := by
  have hcells : (zigzag m).toFinset = Finset.range m ×ˢ (Finset.range m).erase 6 := by
    ext ⟨r, c⟩
    simp only [List.mem_toFinset, mem_zigzag_iff hm h7, Finset.mem_product, Finset.mem_erase, Finset.mem_range]
    tauto
  have hhalf : (m - 1) / 2 * (2 * m) = m * (m - 1) := by
    obtain ⟨n, rfl⟩ : ∃ n, m = 2 * n + 1 := ⟨m / 2, by omega⟩
    rw [Nat.add_sub_cancel, Nat.mul_div_cancel_left n two_pos]
    ring
  refine (Multiset.toFinset_card_eq_card_iff_nodup (m := Multiset.ofList (zigzag m))).1 ?_
  calc (zigzag m).toFinset.card = m * (m - 1) := by simp [hcells, show 6 < m by omega]
    _ = (zigzag m).length := by rw [zigzag_length hm h7, hhalf]

end

end Sys2Proof.Machine
end

section
/-! SUPPORT. What PLACE's run over the visits leaves (45_placement.md R251, R252). No visit changes an ISFUNC bit or a
byte of CWBUF, so whether a cell is skipped and which bit it takes are those of the memory the run began with. -/

namespace Sys2Proof.Machine

open Sys2Proof.Claims

/-- Bit i of a stream of t codewords, and 0 past its end (R251). -/
def Memory.bitOrZero (mem : Memory) (t i : Nat) : Bool := if i < 8 * t then mem.streamBit i else false

theorem placedBit_eq (mem : Memory) (m t p : Nat) : placedBit mem m t p = mem.bitOrZero t (dataIndex mem m p) := rfl

theorem Memory.bitOrZero_congr {mem mem' : Memory} {t : Nat} (ht : t ≤ 256)
    (h : ∀ j, j < 256 → mem'.cwbuf j = mem.cwbuf j) (i : Nat) : mem'.bitOrZero t i = mem.bitOrZero t i := by
  rw [bitOrZero, bitOrZero]
  split
  · rw [streamBit, streamBit, h _ (by omega)]
  · rfl

/-- Past the end of the stream every index gives 0. -/
theorem Memory.bitOrZero_min (mem : Memory) (t i : Nat) : mem.bitOrZero t (min i (8 * t)) = mem.bitOrZero t i := by
  by_cases h : i < 8 * t
  · rw [Nat.min_eq_left h.le]
  · rw [bitOrZero, bitOrZero, if_neg h, if_neg (by omega)]

theorem placedBit_congr {mem mem' : Memory} {t : Nat} (ht : t ≤ 256) (hf : mem'.func = mem.func)
    (hcw : ∀ j, j < 256 → mem'.cwbuf j = mem.cwbuf j) (m p : Nat) : placedBit mem' m t p = placedBit mem m t p := by
  rw [placedBit_eq, placedBit_eq, Memory.bitOrZero_congr ht hcw, dataIndex, dataIndex, hf]

/-! ### One visit -/

theorem placeCell_function {mem : Memory} {rc : Nat × Nat} (h : mem.func rc.1 rc.2 = true) (t i : Nat) :
    placeCell t (mem, i) rc = (mem, i) := if_pos h

theorem placeCell_data {mem : Memory} {rc : Nat × Nat} (h : mem.func rc.1 rc.2 = false) (t i : Nat) :
    placeCell t (mem, i) rc =
      (mem.setDark rc.1 rc.2 (mem.bitOrZero t i), if i < 8 * t then i + 1 else i) := by
  rw [placeCell, if_neg (by simp [h]), Memory.bitOrZero]
  split <;> rfl

theorem Memory.func_setDark_eq (mem : Memory) (r c : Nat) (d : Bool) : (mem.setDark r c d).func = mem.func := by
  funext i j
  exact mem.func_setDark r c d i j

theorem Memory.read_setDark_ne (mem : Memory) {i j r c : Nat} (d : Bool) (hc : c < 64) (h : ¬ (i = r ∧ j = c)) :
    (mem.setDark i j d).read (cellAddr r c) = mem.read (cellAddr r c) := by
  rw [setDark, read_setCell, if_neg]
  rintro ⟨hb, e⟩
  have hj := ((backed_iff i j).1 hb).2
  exact h (cellAddr_inj (by omega) hc e)

/-! ### A run of visits -/

/-- What every store to a visited data cell keeps, a run of visits keeps. -/
theorem foldl_placeCell_keeps (P : Memory → Prop) {mem0 : Memory} {visits : List (Nat × Nat)} {acc : Memory × Nat}
    (t : Nat) (hf : acc.1.func = mem0.func) (h : P acc.1)
    (hP : ∀ mem, ∀ rc ∈ visits, mem.func = mem0.func → mem0.func rc.1 rc.2 = false → P mem →
      ∀ d, P (mem.setDark rc.1 rc.2 d)) :
    (visits.foldl (placeCell t) acc).1.func = mem0.func ∧ P (visits.foldl (placeCell t) acc).1 := by
  refine List.foldlRecOn (motive := fun acc : Memory × Nat => acc.1.func = mem0.func ∧ P acc.1) visits _ ⟨hf, h⟩ ?_
  rintro ⟨mem, i⟩ ⟨hf, h⟩ rc hrc
  cases hcell : mem.func rc.1 rc.2 with
  | true => rw [placeCell_function hcell]; exact ⟨hf, h⟩
  | false =>
    rw [placeCell_data hcell]
    exact ⟨(mem.func_setDark_eq _ _ _).trans hf, hP mem rc hrc hf (hf ▸ hcell) h _⟩

/-- The stream bit index counts the data cells visited, up to the end of the stream. -/
theorem foldl_placeCell_index (visits : List (Nat × Nat)) {mem : Memory} {t i : Nat} (hi : i ≤ 8 * t) :
    (visits.foldl (placeCell t) (mem, i)).2 =
      min (i + visits.countP (fun rc => !mem.func rc.1 rc.2)) (8 * t) := by
  induction visits generalizing mem i with
  | nil => exact (Nat.min_eq_left hi).symm
  | cons rc visits ih =>
    rw [List.foldl_cons]
    cases hcell : mem.func rc.1 rc.2 with
    | true => rw [placeCell_function hcell, ih hi, List.countP_cons_of_neg (by simp [hcell])]
    | false =>
      rw [placeCell_data hcell, ih (by split <;> omega), Memory.func_setDark_eq,
        List.countP_cons_of_pos (by simp [hcell])]
      split <;> omega

/-- A data cell visited once reads as the bit whose number is the count of data cells before it. -/
theorem read_foldl_placeCell {mem : Memory} {t : Nat} (ht : t ≤ 256) {before later : List (Nat × Nat)} {r c : Nat}
    (hr : r < 37) (hc : c < 37) (hdata : mem.func r c = false) (honce : (r, c) ∉ later) :
    ((before ++ (r, c) :: later).foldl (placeCell t) (mem, 0)).1.read (cellAddr r c) =
      cellByte (mem.bitOrZero t (before.countP (fun rc => !mem.func rc.1 rc.2))) false := by
  have hindex := foldl_placeCell_index before (mem := mem) (Nat.zero_le (8 * t))
  obtain ⟨hfunc, hcw⟩ := foldl_placeCell_keeps (fun mem' => ∀ j, j < 256 → mem'.cwbuf j = mem.cwbuf j)
    (visits := before) (acc := (mem, 0)) t rfl (fun _ _ => rfl)
    (fun mem' rc _ _ _ h d j hj => (mem'.cwbuf_setCell _ _ _ _ (by omega)).trans (h j hj))
  rw [List.foldl_append, List.foldl_cons]
  generalize before.foldl (placeCell t) (mem, 0) = acc at hindex hfunc hcw
  obtain ⟨mem', i⟩ := acc
  dsimp only at hindex hfunc hcw
  rw [placeCell_data (congrFun₂ hfunc r c ▸ hdata)]
  refine (foldl_placeCell_keeps (fun mem'' => mem''.read (cellAddr r c) = _) t rfl ?_ ?_).2
  · rw [Memory.setDark, Memory.read_setCell, if_pos ⟨(backed_iff r c).2 ⟨hr, hc⟩, rfl⟩, hfunc, hdata,
      Memory.bitOrZero_congr ht hcw, hindex, Memory.bitOrZero_min, Nat.zero_add]
  · rintro mem'' ⟨i, j⟩ hrc - - h d
    rw [mem''.read_setDark_ne d (by omega) (fun e => honce ?_), h]
    rwa [← e.1, ← e.2]

/-! ### All of zz(m) -/

theorem placeData_func (m t : Nat) (mem : Memory) : (placeData m t mem).func = mem.func :=
  (foldl_placeCell_keeps (fun _ => True) t rfl trivial (fun _ _ _ _ _ _ _ => trivial)).1

theorem placeData_cwbuf (m t : Nat) (mem : Memory) : ∀ j, j < 256 → (placeData m t mem).cwbuf j = mem.cwbuf j :=
  fun _ => (cellStores_placeData m t mem).cwbuf

/-- A function cell's value is kept, for no visit stores to it. -/
theorem placeData_dark_function {mem : Memory} {r c : Nat} (h : mem.func r c = true) (m t : Nat) :
    (placeData m t mem).dark r c = mem.dark r c := by
  refine (foldl_placeCell_keeps (fun mem' => mem'.dark r c = mem.dark r c) t rfl rfl ?_).2
  rintro mem' ⟨i, j⟩ - - hdata hkept d
  rw [Memory.dark_setDark, if_neg, hkept]
  rintro ⟨-, rfl, rfl⟩
  simp [h] at hdata

/-- Every byte that is no visited data cell's is kept. -/
theorem placeData_read_of_ne {m : Nat} {mem : Memory} {a : Nat}
    (ha : ∀ r c, (r, c) ∈ zigzag m → mem.func r c = false → a ≠ cellAddr r c) (t : Nat) :
    (placeData m t mem).read a = mem.read a := by
  refine (foldl_placeCell_keeps (fun mem' => mem'.read a = mem.read a) t rfl rfl ?_).2
  rintro mem' ⟨i, j⟩ hrc - hdata hkept d
  rw [Memory.setDark, Memory.read_setCell, if_neg (fun e => ha i j hrc hdata e.2.symm), hkept]

section
variable {m t : Nat} (hm : m % 2 = 1) (h7 : 7 ≤ m) (h37 : m ≤ 37) (ht : t ≤ 256)
include hm h7 h37 ht

/-- The data cell of visit p reads as its placed bit: no later visit comes back to it. -/
theorem placeData_read_visit {mem : Memory} {p r c : Nat} (hp : (zigzag m)[p]? = some (r, c))
    (hdata : mem.func r c = false) :
    (placeData m t mem).read (cellAddr r c) = cellByte (placedBit mem m t p) false := by
  have hlt := mem_zigzag_lt (List.mem_of_getElem? hp)
  obtain ⟨hlen, hget⟩ := List.getElem?_eq_some_iff.1 hp
  have hsplit : zigzag m = (zigzag m).take p ++ (r, c) :: (zigzag m).drop (p + 1) := by
    rw [← hget, ← List.drop_eq_getElem_cons hlen, List.take_append_drop]
  have honce : (r, c) ∉ (zigzag m).drop (p + 1) := by
    have hnodup := zigzag_nodup hm h7
    rw [hsplit] at hnodup
    exact (List.nodup_cons.1 (List.nodup_append.1 hnodup).2.1).1
  rw [placeData, hsplit, read_foldl_placeCell ht (by omega) (by omega) hdata honce, placedBit_eq,
    dataIndex]

theorem placeData_dark_visit {mem : Memory} {p r c : Nat} (hp : (zigzag m)[p]? = some (r, c))
    (hdata : mem.func r c = false) : (placeData m t mem).dark r c = placedBit mem m t p := by
  have hlt := mem_zigzag_lt (List.mem_of_getElem? hp)
  rw [Memory.dark, placeData_read_visit hm h7 h37 ht hp hdata, (backed_iff r c).2 (by omega), Bool.true_and,
    cellByte_bit0]

/-- Placing again gives each visited data cell the bit it has (R252). -/
theorem placeData_placeData_read (mem : Memory) (a : Nat) :
    (placeData m t (placeData m t mem)).read a = (placeData m t mem).read a := by
  by_cases ha : ∃ r c, (r, c) ∈ zigzag m ∧ mem.func r c = false ∧ a = cellAddr r c
  · obtain ⟨r, c, hrc, hdata, rfl⟩ := ha
    obtain ⟨p, hp⟩ := List.mem_iff_getElem?.1 hrc
    have hfunc := placeData_func m t mem
    rw [placeData_read_visit hm h7 h37 ht hp (hfunc ▸ hdata), placeData_read_visit hm h7 h37 ht hp hdata,
      placedBit_congr ht hfunc (placeData_cwbuf m t mem)]
  · refine placeData_read_of_ne (fun r c hrc hdata e => ha ⟨r, c, hrc, ?_, e⟩) t
    rwa [placeData_func] at hdata

end

end Sys2Proof.Machine
end

section
/-! SUPPORT. What PLACE answers (45_placement.md R251, R252). -/

namespace Sys2Proof.Machine

open Sys2Proof.Claims

/-- In any state PLACE stores nothing, for want of a version, or places the stream. -/
theorem mem_of_place {s t : State} (h : exec .place s = .next t) :
    t.mem = s.mem ∨ t.mem = placeData s.side s.totalCw s.mem := by
  obtain rfl : (placeBody s).complete = t := Host.Outcome.next.inj h
  rw [placeBody]
  rcases needVersion_cases s (done { s with mem := placeData s.side s.totalCw s.mem }) with ⟨-, e⟩ | ⟨-, e⟩ <;> rw [e]
  · exact .inl rfl
  · exact .inr rfl

section
variable {s : State} (hv : HasVersion s)
include hv

theorem side_odd : s.side % 2 = 1 := by
  have hodd : ∀ m ∈ symbolSides, m % 2 = 1 := by decide
  exact hodd s.side (side_mem_symbolSides hv)

theorem totalCw_le : s.totalCw ≤ 256 := by
  obtain ⟨v, hmem, e⟩ := syminfo_of_hasVersion hv
  rw [State.totalCw, e]
  clear e
  revert v
  decide

theorem exec_place : exec .place s = .next { completedOk s with mem := placeData s.side s.totalCw s.mem } :=
  congrArg completes (placeBody_ok hv.2)

section
variable {t : State} (ht : exec .place s = .next t)
include ht

/-- With a version selected PLACE places the stream and completes. -/
theorem onlyMemory_of_place : OnlyMemory s t ∧ t.mem = placeData s.side s.totalCw s.mem := by
  obtain rfl := Host.Outcome.next.inj ((exec_place hv).symm.trans ht)
  exact ⟨rfl, rfl⟩

theorem place_dark_visit {p r c : Nat} (hp : (zigzag s.side)[p]? = some (r, c)) (hdata : s.mem.func r c = false) :
    t.mem.dark r c = placedBit s.mem s.side s.totalCw p := by
  obtain ⟨h25, h37⟩ := side_bounds hv
  rw [(onlyMemory_of_place hv ht).2]
  exact placeData_dark_visit (side_odd hv) (by omega) h37 (totalCw_le hv) hp hdata

theorem place_place_read {u : State} (hu : exec .place t = .next u) (a : Nat) : u.mem.read a = t.mem.read a := by
  obtain ⟨h25, h37⟩ := side_bounds hv
  obtain ⟨honly, htmem⟩ := onlyMemory_of_place hv ht
  obtain ⟨-, humem⟩ := onlyMemory_of_place (hasVersion_of_onlyMemory honly hv) hu
  rw [humem, State.side, State.totalCw, syminfo_of_onlyMemory honly, htmem]
  exact placeData_placeData_read (side_odd hv) (by omega) h37 (totalCw_le hv) s.mem a

end

end

end Sys2Proof.Machine
end

section
/-! The statements of the placement family, settled. -/

namespace Sys2Proof.Machine

open Sys2Proof.Claims

/-- Settles O35: the loop's column at pair k is a closed form, and the list is as long as the square without column 6
has cells. -/
theorem zigzagVisitsEveryCellOffColumnSix : Obligations.ZigzagVisitsEveryCellOffColumnSix := by
  unfold Obligations.ZigzagVisitsEveryCellOffColumnSix
  intro m hm h7
  exact ⟨zigzag_length hm h7, fun _ _ _ => zigzag_getElem? hm h7, zigzag_nodup hm h7, mem_zigzag_iff hm h7⟩

/-- Settles O36: a visit takes the bit counted by the data cells before it, and no later visit comes back to it. -/
theorem placeWritesTheStreamInZigzagOrder : Obligations.PlaceWritesTheStreamInZigzagOrder := by
  unfold Obligations.PlaceWritesTheStreamInZigzagOrder
  intro s hv
  exact ⟨_, exec_place hv, rfl, congrFun₂ (placeData_func s.side s.totalCw s.mem),
    fun _ _ _ => place_dark_visit hv (exec_place hv), fun _ ha => placeData_read_of_ne ha s.totalCw⟩

/-- Settles O37: the placed bit is a function of ISFUNC and CWBUF, which PLACE keeps. -/
theorem placeDependsOnFunctionCellsAndCodewordsOnly : Obligations.PlaceDependsOnFunctionCellsAndCodewordsOnly := by
  unfold Obligations.PlaceDependsOnFunctionCellsAndCodewordsOnly
  refine ⟨?_, ?_, fun s t u hv ht hu => place_place_read hv ht hu⟩
  · intro s s' t t' hv hsym hfunc hcw ht ht' r c hrc hdata
    have hv' : HasVersion s' := by rwa [HasVersion, hsym]
    have hside : s'.side = s.side := congrArg (fun y => y.moduleCount.toNat) hsym
    have htotal : s'.totalCw = s.totalCw := congrArg (fun y => y.dataCw.toNat + y.eccCw.toNat) hsym
    obtain ⟨p, hp⟩ : ∃ p, (zigzag s.side)[p]? = some (r, c) := List.mem_iff_getElem?.1 hrc
    rw [place_dark_visit hv ht hp hdata, place_dark_visit hv' ht' (hside ▸ hp) ((hfunc r c).trans hdata), hside,
      htotal, placedBit_congr (totalCw_le hv) (funext₂ hfunc) hcw]
  · intro s t ht r c hfunction
    rcases mem_of_place ht with e | e <;> rw [e]
    exact placeData_dark_function hfunction s.side s.totalCw

end Sys2Proof.Machine
end

section
/-! SUPPORT. What the mask does to the grid, and what MASK answers (46_mask.md R270). -/

namespace Sys2Proof.Machine

open Sys2Proof.Claims

/-! ### One cell's turn -/

/-- The mask flips cell (r, c): a data cell with r + c even (R270). -/
def Memory.flips (mem : Memory) (r c : Nat) : Bool := !mem.func r c && decide ((r + c) % 2 = 0)

theorem Memory.flips_iff (mem : Memory) (r c : Nat) :
    mem.flips r c = true ↔ mem.func r c = false ∧ (r + c) % 2 = 0 := by simp [flips]

theorem Memory.flips_congr {mem mem' : Memory} (h : mem'.func = mem.func) : mem'.flips = mem.flips := by
  funext r c
  rw [flips, flips, h]

theorem maskCell_of_flips {mem : Memory} {i j : Nat} (h : mem.flips i j = true) :
    maskCell mem (i, j) = mem.setDark i j (!mem.dark i j) := if_pos ((mem.flips_iff i j).1 h)

theorem maskCell_of_not_flips {mem : Memory} {i j : Nat} (h : mem.flips i j = false) :
    maskCell mem (i, j) = mem := if_neg fun hdata => by simp [(mem.flips_iff i j).2 hdata] at h

theorem maskCell_func (mem : Memory) (rc : Nat × Nat) : (maskCell mem rc).func = mem.func := by
  rw [maskCell]
  split
  · exact mem.func_setDark_eq _ _ _
  · rfl

theorem maskCell_dark_same (mem : Memory) {r c : Nat} (hb : backed r c = true) :
    (maskCell mem (r, c)).dark r c = (mem.dark r c ^^ mem.flips r c) := by
  cases h : mem.flips r c with
  | true => rw [maskCell_of_flips h, Memory.dark_setDark, if_pos ⟨hb, rfl, rfl⟩, Bool.xor_true]
  | false => rw [maskCell_of_not_flips h, Bool.xor_false]

theorem maskCell_dark_ne (mem : Memory) {rc : Nat × Nat} {r c : Nat} (h : rc ≠ (r, c)) :
    (maskCell mem rc).dark r c = mem.dark r c := by
  rw [maskCell]
  split
  · exact (mem.dark_setDark _ _ _ _ _).trans (if_neg fun e => h (Prod.ext e.2.1 e.2.2))
  · rfl

/-- A turn keeps every byte that is not the byte of its own flipped cell. -/
theorem maskCell_read_of_ne (mem : Memory) {rc : Nat × Nat} {a : Nat}
    (ha : mem.flips rc.1 rc.2 = true → a ≠ cellAddr rc.1 rc.2) : (maskCell mem rc).read a = mem.read a := by
  obtain ⟨i, j⟩ := rc
  cases h : mem.flips i j with
  | true =>
    rw [maskCell_of_flips h, Memory.setDark, Memory.read_setCell, if_neg fun e => ha h e.2.symm]
  | false => rw [maskCell_of_not_flips h]

/-! ### All of the square -/

theorem squareCells_nodup (n : Nat) : (squareCells n).Nodup :=
  List.Nodup.product List.nodup_range List.nodup_range

/-- Over cells that do not repeat, each cell takes its turn at most once: later turns neither undo its flip nor change
which cells flip. -/
theorem foldl_maskCell_dark {cells : List (Nat × Nat)} (hnodup : cells.Nodup) (mem : Memory) {r c : Nat}
    (hb : backed r c = true) :
    (cells.foldl maskCell mem).dark r c = (mem.dark r c ^^ (decide ((r, c) ∈ cells) && mem.flips r c)) := by
  induction cells generalizing mem with
  | nil => simp
  | cons rc cells ih =>
    obtain ⟨hnot, hrest⟩ := List.nodup_cons.1 hnodup
    rw [List.foldl_cons, ih hrest, Memory.flips_congr (maskCell_func mem rc)]
    by_cases h : rc = (r, c)
    · subst h
      simp [maskCell_dark_same mem hb, hnot]
    · simp [maskCell_dark_ne mem h, Ne.symm h]

theorem maskGrid_func (m : Nat) (mem : Memory) : (maskGrid m mem).func = mem.func :=
  foldl_keeps (fun mem' => mem'.func = mem.func) maskCell (fun mem' rc h => (maskCell_func mem' rc).trans h) _ rfl

theorem maskGrid_maskGrid_func (m : Nat) (mem : Memory) : (maskGrid m (maskGrid m mem)).func = mem.func :=
  (maskGrid_func m _).trans (maskGrid_func m mem)

theorem maskGrid_dark (m : Nat) (mem : Memory) {r c : Nat} (hb : backed r c = true) :
    (maskGrid m mem).dark r c = (mem.dark r c ^^ (decide (r < m ∧ c < m) && mem.flips r c)) := by
  simp only [maskGrid, foldl_maskCell_dark (squareCells_nodup m) mem hb, mem_squareCells]

/-- Every byte that is no flipped cell's is kept. -/
theorem maskGrid_read_of_ne {m : Nat} {mem : Memory} {a : Nat}
    (ha : ∀ r c, r < m → c < m → mem.flips r c = true → a ≠ cellAddr r c) :
    (maskGrid m mem).read a = mem.read a := by
  refine (List.foldlRecOn (motive := fun mem' => mem'.func = mem.func ∧ mem'.read a = mem.read a) (squareCells m)
    maskCell ⟨rfl, rfl⟩ ?_).2
  rintro mem' ⟨hfunc, hread⟩ rc hrc
  obtain ⟨hr, hc⟩ := mem_squareCells.1 hrc
  refine ⟨(maskCell_func mem' rc).trans hfunc, (maskCell_read_of_ne mem' fun h => ha _ _ hr hc ?_).trans hread⟩
  rwa [Memory.flips_congr hfunc] at h

theorem Memory.dark_of_not_backed (mem : Memory) {r c : Nat} (h : backed r c = false) : mem.dark r c = false := by
  rw [dark, h, Bool.false_and]

/-- The mask keeps ISFUNC, so it flips the same cells again (R270). -/
theorem maskGrid_maskGrid_dark (m : Nat) (mem : Memory) (r c : Nat) :
    (maskGrid m (maskGrid m mem)).dark r c = mem.dark r c := by
  cases hb : backed r c with
  | true =>
    rw [maskGrid_dark m _ hb, maskGrid_dark m mem hb, Memory.flips_congr (maskGrid_func m mem), Bool.xor_assoc,
      Bool.xor_self, Bool.xor_false]
  | false => rw [Memory.dark_of_not_backed _ hb, Memory.dark_of_not_backed _ hb]

theorem maskGrid_read_of_not_cell {m a : Nat} (hm : m ≤ 37) (ha : ¬ isCellAddr a) (mem : Memory) :
    (maskGrid m mem).read a = mem.read a :=
  (cellStores_maskGrid m mem).read_of_ne fun r c hr hc e => ha ⟨r, c, by omega, by omega, e⟩

/-! ### The command -/

theorem exec_mask {s : State} (h : HasVersion s) :
    exec .mask s = .next { completedOk s with mem := maskGrid s.side s.mem } :=
  congrArg completes (maskBody_ok h.2)

end Sys2Proof.Machine
end

section
/-! The statement of the mask family, settled. -/

namespace Sys2Proof.Machine

open Sys2Proof.Claims

/-- Settles O38: each cell of the square takes one turn, and no turn changes which cells flip. -/
theorem maskFlipsTheEvenDataCells : Obligations.MaskFlipsTheEvenDataCells := by
  unfold Obligations.MaskFlipsTheEvenDataCells
  intro s hv
  obtain ⟨h25, h37⟩ := side_bounds hv
  have hagain : HasVersion { completedOk s with mem := maskGrid s.side s.mem } :=
    hasVersion_of_onlyMemory (s := s) rfl hv
  refine ⟨_, exec_mask hv, rfl, ⟨congrFun₂ (maskGrid_func s.side s.mem), ?_, ?_⟩, _, exec_mask hagain, ?_, ?_⟩
  · intro r c hr hc
    have hb : backed r c = true := (backed_iff r c).2 ⟨hr.trans_le h37, hc.trans_le h37⟩
    have hturn : decide (r < s.side ∧ c < s.side) = true := decide_eq_true ⟨hr, hc⟩
    rw [maskGrid_dark s.side s.mem hb, hturn, Bool.true_and, Memory.flips]
  · intro a ha
    refine maskGrid_read_of_ne fun r c hr hc hflips => ?_
    obtain ⟨hdata, heven⟩ := (s.mem.flips_iff r c).1 hflips
    exact ha r c hr hc hdata heven
  · exact fun r c =>
      ⟨maskGrid_maskGrid_dark s.side s.mem r c, congrFun₂ (maskGrid_maskGrid_func s.side s.mem) r c⟩
  · intro a ha
    exact (maskGrid_read_of_not_cell h37 ha _).trans (maskGrid_read_of_not_cell h37 ha s.mem)

end Sys2Proof.Machine
end

section
/-! SUPPORT. A step by its first event (20_memory.md R71), the core's turn with a legal word (47_sequencer.md R281), and
what a host access may change while a command runs (R280). -/

namespace Sys2Proof.Machine

open Sys2Proof.Claims

/-! ### Steps -/

theorem step_of_nil {s : State} (h : s.events = []) : step s = coreTurn s := by rw [step, h]

theorem step_of_core {s : State} {es : List Event} (h : s.events = .core :: es) :
    step s = coreTurn { s with events := es } := by
  rw [step, State.popEvent, h]
  rfl

theorem step_of_host {s : State} {a : Access} {es : List Event} (h : s.events = .host a :: es) :
    step s = .next (hostAccess a { s with events := es }) := by
  rw [step, State.popEvent, h]
  rfl

theorem coreTurn_of_not_generating {s : State} (h : s.status.state ≠ .generating) : coreTurn s = .next s := if_neg h

/-- A legal word completes by its command's rule (R281). -/
theorem coreTurn_of_legal {s : State} {w : Word} {i : Instr} (hs : s.status.state = .generating)
    (hw : s.curCmd = some w) (hd : decode w = .ok i) : coreTurn s = exec i s := by
  rw [coreTurn, if_pos hs, hw]
  simp only [completeWord, hd]

/-- With the latch as it is in every reachable state the core's turn answers (R35, R281). -/
theorem coreTurn_answers {s : State} (h : Inv s) : ∃ t, coreTurn s = .next t := by
  rcases coreTurn_cases s with ⟨-, e⟩ | ⟨hs, hw, -⟩ | ⟨-, -, -, -, -, e⟩ | ⟨-, i, -, -, -, e⟩
  · exact ⟨s, e⟩
  · have hlatch := h.latch
    simp [State.latchOk, hs, hw] at hlatch
  · exact ⟨_, e⟩
  · obtain ⟨t, ht, -⟩ := exec_leaves i s
    exact ⟨t, e.trans ht⟩

/-! ### Accesses while a command runs -/

/-- While a command runs an access changes at most the bus's answer, the count of free values and OVR (R67, R68). -/
theorem hostAccess_of_generating {s : State} (hs : s.status.state = .generating) (a : Access) :
    ∃ r n o, hostAccess a s = { s with response := r, draws := n, status := { s.status with ovr := o } } := by
  by_cases hb : raisesBusError a
  · exact ⟨_, s.draws, s.status.ovr, hostAccess_of_busError hb s⟩
  · cases hw : isWrite a with
    | true =>
      obtain ⟨t, e⟩ := hostAccess_isWrite hw hb s
      exact ⟨_, s.draws, true, e.trans (State.write_of_generating hs t)⟩
    | false =>
      obtain ⟨d, n, e, -⟩ := hostAccess_read_of_generating hs hw hb
      exact ⟨_, n, s.status.ovr, e⟩

/-- CMD is a mapped, aligned offset (R61). -/
theorem not_raisesBusError_cmd (w : Word) : ¬ raisesBusError (.wr32 0#13 w) := by simp [raisesBusError, inReserved]

/-- STATUS bits [1:0] show STATE (R22). -/
theorem Status.word_stateField (t : Status) : t.word.extractLsb' 0 2 = BitVec.ofNat 2 t.state.code := by
  obtain ⟨hstate, -⟩ := t.word_fields
  rw [← hstate, BitVec.ofNat_toNat, BitVec.setWidth_eq]

end Sys2Proof.Machine
end

section
/-! SUPPORT. How each command ends (47_sequencer.md R282): the error its pseudocode raises is the one of 60_exceptions.md
R310 and R313, and no pseudocode but CLRERR's and SOFTRESET's writes STATUS. -/

namespace Sys2Proof.Machine

open Sys2Proof.Claims

/-- The model's check and the rule's use one capacity table (R120, R140). -/
theorem tooLarge_eq_oversized (s : State) (v : Nat) : tooLarge s v = oversized s v := by
  rw [tooLarge, overflows, VT_capBits]
  rfl

/-- STATUS before the completion step writes it: CLRERR's pseudocode has cleared ERR and OVR (R296), no other command
that completes by R282 has written it. -/
def bodyStatus (i : Instr) (s : State) : Status :=
  if i = .clrerr then { s.status with err := none, ovr := false } else s.status

/-- A pseudocode's result: the error of R310 and R313, and STATUS as the pseudocode leaves it. -/
def EndsByError (i : Instr) (s : State) (r : CmdResult) : Prop :=
  r.err = errorOf i s ∧ r.state.status = bodyStatus i s

theorem setverBody_ends (a : Byte) (s : State) : EndsByError (.setver a) s (setverBody a s) := by
  have hop : versionOperandOk a = true ↔ a.toNat ∈ [0, 2, 3, 4, 5] := versionOperandOk_iff a
  rw [EndsByError, setverBody, errorOf]
  simp only [hop]
  split <;> exact ⟨rfl, rfl⟩

theorem gfgenBody_ends (n j : Byte) (s : State) : EndsByError (.gfgen n j) s (gfgenBody n j s) := by
  have hcount : (!eccCountOk n) = true ↔ n.toNat < 1 ∨ 26 < n.toNat := by
    rw [Bool.not_eq_true', ← Bool.not_eq_true, eccCountOk_iff]
    omega
  rw [gfgenBody]
  split
  · next h => exact ⟨(if_pos (hcount.1 h)).symm, rfl⟩
  · next h =>
    have herr : errorOf (.gfgen n j) s = _ := if_neg (mt hcount.2 h)
    split
    · next hj => exact ⟨(herr.trans (if_pos hj)).symm, rfl⟩
    · next hj => exact ⟨(herr.trans (if_neg hj)).symm, rfl⟩

theorem rsencBody_ends (n k : Byte) (s : State) : EndsByError (.rsenc n k) s (rsencBody (operand n) (operand k) s) := by
  rw [rsencBody]
  split
  · next h => exact ⟨(if_pos h).symm, rfl⟩
  · next h =>
    have herr : errorOf (.rsenc n k) s = _ := if_neg h
    split
    · next hk => exact ⟨(herr.trans (if_pos hk)).symm, rfl⟩
    · next hk => exact ⟨(herr.trans (if_neg hk)).symm, rfl⟩

theorem cleargridBody_ends (s : State) : EndsByError .cleargrid s (cleargridBody s) := by
  rw [cleargridBody]
  generalize clearGrid s.mem = cleared
  exact ⟨rfl, rfl⟩

theorem bitstreamBody_ends (s : State) : EndsByError .bitstream s (bitstreamBody s) := by
  rw [EndsByError, bitstreamBody, errorOf, needVersion, tooLarge_eq_oversized]
  split_ifs <;> exact ⟨rfl, rfl⟩

/-- A command that needs a version and nothing else raises BAD_VERSION exactly without one (R284). -/
theorem needVersion_ends {i : Instr} (hi : i ∈ [.finder, .timing, .align, .rsvfmt, .format, .place, .mask])
    (s : State) (m : Memory) : EndsByError i s (needVersion s (done { s with mem := m })) := by
  have herr : errorOf i s = if s.syminfo.version = 0#8 then some .badVersion else none := by
    revert i
    simp [errorOf]
  have hstatus : bodyStatus i s = s.status := if_neg fun e => by simp [e] at hi
  rw [EndsByError, herr, hstatus, needVersion]
  split <;> exact ⟨rfl, rfl⟩

theorem generateBody_ends (s : State) : EndsByError .generate s (generateBody s) := by
  have hlen : s.len ≠ 0#8 ↔ s.len.toNat ≠ 0 := by simp [BitVec.toNat_eq]
  have herr : errorOf .generate s =
      if s.len.toNat ≠ 0 ∧ tooLarge s (selectVersion s.len.toNat) = true then some .dataTooLarge else none := by
    simp only [errorOf, tooLarge_eq_oversized, selectVersion_eq_versionFor, hlen]
  rw [EndsByError, herr]
  by_cases h0 : s.len.toNat = 0
  · rw [generateBody_empty h0, if_neg fun h => h.1 h0]
    exact ⟨rfl, rfl⟩
  · cases ht : tooLarge s (selectVersion s.len.toNat) with
    | true =>
      rw [generateBody_tooLarge h0 ht, if_pos ⟨h0, rfl⟩]
      exact ⟨rfl, rfl⟩
    | false =>
      rw [generateBody_ok h0 ht, if_neg fun h => nomatch h.2]
      exact ⟨rfl, rfl⟩

/-- Every command but SOFTRESET completes by R282, with its error. -/
theorem exec_ends {i : Instr} (hi : i ≠ .softreset) (s : State) :
    ∃ r, exec i s = .next r.complete ∧ EndsByError i s r := by
  cases i with
  | softreset => exact absurd rfl hi
  | nop | clrerr | selver | gfmul | gfexp | gflog => exact ⟨_, rfl, rfl, rfl⟩
  | cleargrid => exact ⟨_, rfl, cleargridBody_ends s⟩
  | generate => exact ⟨_, rfl, generateBody_ends s⟩
  | setver a => exact ⟨_, rfl, setverBody_ends a s⟩
  | bitstream => exact ⟨_, rfl, bitstreamBody_ends s⟩
  | gfgen n j => exact ⟨_, rfl, gfgenBody_ends n j s⟩
  | rsenc n k => exact ⟨_, rfl, rsencBody_ends n k s⟩
  | finder | timing | align | rsvfmt | format | place | mask => exact ⟨_, rfl, needVersion_ends (by decide) s _⟩

/-- CLRERR raises nothing, so after an error STATUS is the rule's for the state the command began in. -/
theorem bodyStatus_complete_some {i : Instr} {s : State} {e : Err} (h : errorOf i s = some e) :
    (bodyStatus i s).complete (some e) = failedStatus s e := by
  have hi : i ≠ .clrerr := by
    rintro rfl
    cases h
  rw [bodyStatus, if_neg hi]
  rfl

theorem bodyStatus_complete_none (i : Instr) (s : State) : (bodyStatus i s).complete none =
    if i = .clrerr then ⟨.ready, false, false, none⟩ else okStatus s := by
  rw [bodyStatus]
  split <;> rfl

end Sys2Proof.Machine
end

section
/-! SUPPORT. What NOP, CLRERR and SOFTRESET answer, and the illegal words with an operandless opcode
(47_sequencer.md R290, R293, R296). -/

namespace Sys2Proof.Machine

open Sys2Proof.Claims

/-- The one legal word of an operandless command is its opcode (R91, R94). -/
theorem decode_of_op_F0 {r : OpcodeRow} (hr : r ∈ opcodeMap) (hf : r.format = .F0) {w : Word} (hop : opField w = r.op)
    (hw : w ≠ wordF0 r.op) : decode w = .error .reservedBits := by
  obtain ⟨i, -, hd⟩ := decode_of_op_eq hr hop.symm
  have hbits : w &&& Format.mustBeZero .F0 ≠ 0#32 := fun hz =>
    hw ((and_not_mustBeZero_of_zero hz).symm.trans (wordF0_fields hop).symm)
  rw [hd, hf, decodeAs, if_neg hbits]

theorem exec_nop (s : State) : exec .nop s = .next (completedOk s) := rfl

theorem exec_clrerr (s : State) :
    exec .clrerr s = .next { s with status := ⟨.ready, false, false, none⟩, curCmd := none } := rfl

theorem exec_softreset (s : State) : exec .softreset s = .next (softresetState s) := rfl

theorem softresetState_eq (s : State) : softresetState s = { s with
    status := ⟨.idle, false, false, none⟩, syminfo := ⟨0#8, 0#8, 0#8, 0#8⟩, len := 0#8, qz := 4#8, result := 0#8,
    curCmd := none, mem := clearGrid s.mem } := by
  rw [softresetState]
  generalize clearGrid s.mem = cleared
  rfl

end Sys2Proof.Machine
end

section
/-! The statements of the sequencer's family about the lifecycle, NOP, CLRERR and SOFTRESET, settled. -/

namespace Sys2Proof.Machine

open Sys2Proof.Claims

/-- Settles O7: the error and STATUS each pseudocode ends with, then the completion step. -/
theorem completionSetsStatusByTheError : Obligations.CompletionSetsStatusByTheError := by
  unfold Obligations.CompletionSetsStatusByTheError
  refine ⟨fun i s hi => ?_, fun s w e hs hw hd => ⟨_, coreTurn_of_illegal hs hw hd, rfl, rfl⟩⟩
  obtain ⟨r, hexec, herr, hstatus⟩ := exec_ends hi s
  refine ⟨_, hexec, rfl, ?_⟩
  rw [CmdResult.complete_status, herr, hstatus]
  cases he : errorOf i s with
  | some e => exact bodyStatus_complete_some he
  | none => exact bodyStatus_complete_none i s

/-- Settles O6: acceptance is a register's write, and while GENERATING no access writes STATE or the latch. -/
theorem acceptanceLatchesTheWord : Obligations.AcceptanceLatchesTheWord := by
  unfold Obligations.AcceptanceLatchesTheWord
  refine ⟨fun s w hs => ⟨_, hostAccess_writeRegister hs rfl (by decide) w⟩, fun s a hs => ?_, fun s w hs => ?_⟩
  · obtain ⟨r, n, o, e⟩ := hostAccess_of_generating hs a
    rw [e, Status.word_stateField]
    exact ⟨hs, rfl, by rw [hs]; rfl⟩
  · exact writesWhileGeneratingAreDropped s _ hs rfl (not_raisesBusError_cmd w)

/-- Settles O55: the latch is filled while GENERATING, and every other turn answers in any state. -/
theorem noStepStops : Obligations.NoStepStops := by
  unfold Obligations.NoStepStops
  intro s h
  rcases step_cases s with ⟨-, e⟩ | ⟨es, -, e⟩ | ⟨a, es, -, e⟩ | ⟨ib, cb, es, -, e⟩ <;> rw [e]
  · exact coreTurn_answers h
  · exact coreTurn_answers (h.withEvents es)
  · exact ⟨_, rfl⟩
  · exact ⟨_, rfl⟩

/-- Settles O10; the dropped write's OVR is cleared by the CLRERR that was running. -/
theorem clrerrClearsTheErrorRecord : Obligations.ClrerrClearsTheErrorRecord := by
  unfold Obligations.ClrerrClearsTheErrorRecord
  refine ⟨exec_clrerr, decode_encode .clrerr, fun s w hop hw hs hc => ?_, fun s a hs hc hw hb => ?_, rfl, rfl⟩
  · exact coreTurn_of_illegal hs hc (decode_of_op_F0 (Instr.row_mem .clrerr) rfl hop hw)
  · obtain ⟨r, e⟩ := writesWhileGeneratingAreDropped s a hs hw hb
    rw [e]
    exact ⟨rfl, _, coreTurn_of_legal (i := .clrerr) hs hc (decode_encode .clrerr), rfl⟩

/-- Settles O11: SOFTRESET runs CLEARGRID and sets every register to its reset value. -/
theorem softresetRestoresTheResetState : Obligations.SoftresetRestoresTheResetState := by
  unfold Obligations.SoftresetRestoresTheResetState
  refine ⟨fun s => ?_, decode_encode .softreset, fun s w hop hw hs hc => ?_⟩
  · have hexec := exec_softreset s
    have hcleared := gridCleared_clearGrid s.mem
    rw [softresetState_eq] at hexec
    generalize clearGrid s.mem = mem at hexec hcleared
    exact ⟨_, hexec, hcleared, rfl⟩
  · exact coreTurn_of_illegal hs hc (decode_of_op_F0 (Instr.row_mem .softreset) rfl hop hw)

/-- Settles O5: the step's first event, then the core's turn by the latch. -/
theorem stepRunsTheDecodedCommand : Obligations.StepRunsTheDecodedCommand := by
  unfold Obligations.StepRunsTheDecodedCommand
  refine ⟨fun s w i hs hw hd => ⟨fun h => ?_, fun es h => ?_⟩, fun s hs => ⟨fun h => ?_, fun es h => ?_⟩,
    fun s => ⟨step_of_nil, fun _ => step_of_core, fun _ _ => step_of_host⟩⟩
  · exact (step_of_nil h).trans (coreTurn_of_legal hs hw hd)
  · exact (step_of_core h).trans (coreTurn_of_legal (s := { s with events := es }) hs hw hd)
  · exact (step_of_nil h).trans (coreTurn_of_not_generating hs)
  · exact (step_of_core h).trans (coreTurn_of_not_generating (s := { s with events := es }) hs)

/-- Settles O9. -/
theorem nopOnlyCompletes : Obligations.NopOnlyCompletes := by
  unfold Obligations.NopOnlyCompletes
  exact ⟨exec_nop, decode_encode .nop, fun w hop hw => decode_of_op_F0 (Instr.row_mem .nop) rfl hop hw, rfl⟩

end Sys2Proof.Machine
end

section
/-! SUPPORT. A memory's whole grid as a function pattern over data values (10_state.md R32), and what stamping, placing
and masking make of it. -/

namespace Sys2Proof.Machine

open Sys2Proof.Claims

/-- The pattern's cells are function cells with its values, and every other cell is a data cell holding `data`. -/
def Memory.HasGrid (mem : Memory) (pattern : Nat → Nat → Option Bool) (data : Nat → Nat → Bool) : Prop :=
  ∀ r c, r < 37 → c < 37 → mem.func r c = (pattern r c).isSome ∧ mem.dark r c = (pattern r c).getD (data r c)

theorem hasGrid_of_gridCleared {m0 m1 : Memory} (h : GridCleared m0 m1) :
    m1.HasGrid (fun _ _ => none) (fun _ _ => false) := fun r c hr hc => (h.1 r c hr hc).symm

theorem Memory.func_of_not_backed (mem : Memory) {r c : Nat} (h : backed r c = false) : mem.func r c = false := by
  rw [func, h, Bool.false_and]

/-- Cells the block does not have are no function cells, so ISFUNC is what it is on the grid. -/
theorem func_eq_of_grid {m0 m1 : Memory} (h : ∀ r c, r < 37 → c < 37 → m1.func r c = m0.func r c) :
    m1.func = m0.func := by
  funext r c
  cases hb : backed r c with
  | true =>
    obtain ⟨hr, hc⟩ := (backed_iff r c).1 hb
    exact h r c hr hc
  | false => rw [Memory.func_of_not_backed _ hb, Memory.func_of_not_backed _ hb]

/-- A cell whose byte is kept keeps its bits. -/
theorem cell_of_read {m0 m1 : Memory} {r c : Nat} (h : m1.read (cellAddr r c) = m0.read (cellAddr r c)) :
    m1.func r c = m0.func r c ∧ m1.dark r c = m0.dark r c := by
  simp only [Memory.func, Memory.dark, h, and_self]

theorem cell_of_stamped_none {pattern : Nat → Nat → Option Bool} {m0 m1 : Memory} (h : Stamped pattern m0 m1)
    {r c : Nat} (hc : c < 37) (hnone : pattern r c = none) : m1.func r c = m0.func r c ∧ m1.dark r c = m0.dark r c := by
  refine cell_of_read (h.2 _ fun i j _ hj hij hadr => hij ?_)
  obtain ⟨rfl, rfl⟩ := cellAddr_inj (by omega) (by omega) hadr
  exact hnone

/-- Values with those of the square's even cells flipped (R270). -/
def masked (m : Nat) (data : Nat → Nat → Bool) (r c : Nat) : Bool :=
  data r c ^^ (decide (r < m ∧ c < m) && decide ((r + c) % 2 = 0))

theorem masked_of_lt {m r c : Nat} (data : Nat → Nat → Bool) (hr : r < m) (hc : c < m) :
    masked m data r c = (data r c ^^ decide ((r + c) % 2 = 0)) := by
  rw [masked, decide_eq_true ⟨hr, hc⟩, Bool.true_and]

section
variable {mem : Memory} {pattern : Nat → Nat → Option Bool} {data : Nat → Nat → Bool} (h : mem.HasGrid pattern data)
include h

/-- A pattern stamped later lies over the one there is. -/
theorem Memory.HasGrid.stamped {upper : Nat → Nat → Option Bool} {mem' : Memory} (hs : Stamped upper mem mem') :
    mem'.HasGrid (fun r c => (upper r c).or (pattern r c)) data := by
  intro r c hr hc
  dsimp only
  cases hupper : upper r c with
  | some v => exact hs.1 r c v hr hc hupper
  | none =>
    obtain ⟨hf, hd⟩ := cell_of_stamped_none hs hc hupper
    rw [hf, hd, Option.none_or]
    exact h r c hr hc

theorem Memory.HasGrid.setCwbuf {k : Nat} {bytes : List Byte} (hk : k + bytes.length ≤ 256) :
    (mem.setCwbuf k bytes).HasGrid pattern data := by
  intro r c hr hc
  obtain ⟨hd, hf⟩ := mem.cells_setCwbuf hk r c
  rw [hd, hf]
  exact h r c hr hc

/-- Placing changes values of data cells only (R251). -/
theorem Memory.HasGrid.placeData (m t : Nat) : (placeData m t mem).HasGrid pattern (placeData m t mem).dark := by
  intro r c hr hc
  obtain ⟨hf, hd⟩ := h r c hr hc
  rw [placeData_func]
  refine ⟨hf, ?_⟩
  cases hp : pattern r c with
  | some v =>
    rw [hp] at hf hd
    exact (placeData_dark_function hf m t).trans hd
  | none => rfl

theorem Memory.HasGrid.maskGrid (m : Nat) : (maskGrid m mem).HasGrid pattern (masked m data) := by
  intro r c hr hc
  obtain ⟨hf, hd⟩ := h r c hr hc
  rw [maskGrid_func, maskGrid_dark m mem ((backed_iff r c).2 ⟨hr, hc⟩), Memory.flips, hf, hd]
  cases pattern r c <;> simp [masked]

end

end Sys2Proof.Machine
end

section
/-! SUPPORT. The function pattern of GENERATE's stages one over the other is the symbol's (47_sequencer.md R288): FORMAT
writes the cells RSVFMT reserved, and no timing cell is a finder's, so TIMING skips none. -/

namespace Sys2Proof.Machine

open Sys2Proof.Claims

/-- What FINDER, TIMING, ALIGN and RSVFMT leave on a cleared grid, the last one uppermost. -/
def reservedPattern (sep : Separators) (m r c : Nat) : Option Bool :=
  (formatPattern (wordBits 0#15) false m r c).or
    ((alignPattern m r c).or ((timingPattern m r c).or (finderPattern sep m r c)))

/-- The timing lines lie between the finders (R206). -/
theorem timingPattern_eq_none_of_finder {sep : Separators} {m r c : Nat} (hm : 25 ≤ m)
    (h : (finderPattern sep m r c).isSome = true) : timingPattern m r c = none := by
  rw [finderPattern_isSome_iff hm] at h
  rw [← Option.not_isSome_iff_eq_none, timingPattern_isSome_iff]
  simp only [mem_cellsOf, finderRects, timingRects, List.mem_cons, List.not_mem_nil, or_false, exists_eq_or_imp,
    exists_eq_left, Rect.mem_cells] at h ⊢
  cases sep <;> simp only [if_true, reduceCtorEq, if_false] at h <;> omega

theorem freeTiming_or_finder {m : Nat} (hm : 25 ≤ m) (sep : Separators) (r c : Nat) :
    (if (finderPattern sep m r c).isSome then none else timingPattern m r c).or (finderPattern sep m r c) =
      (timingPattern m r c).or (finderPattern sep m r c) := by
  cases h : (finderPattern sep m r c).isSome with
  | true => rw [if_pos rfl, timingPattern_eq_none_of_finder hm h]
  | false => rw [if_neg (by decide)]

/-- RSVFMT and FORMAT stamp the same cells (R212, R214). -/
theorem format_isSome_eq_reserved {m : Nat} (hm : m ∈ symbolSides) (r c : Nat) :
    (formatPattern (wordBits 0#15) false m r c).isSome = (formatPattern (wordBits formatWord) true m r c).isSome := by
  rw [Bool.eq_iff_iff, formatPattern_isSome_iff hm rfl, formatPattern_isSome_iff hm rfl]

theorem format_or_reservedPattern {m : Nat} (hm : m ∈ symbolSides) (sep : Separators) (r c : Nat) :
    (formatPattern (wordBits formatWord) true m r c).or (reservedPattern sep m r c) = symbolPattern sep m r c := by
  have hbits : formatBits = wordBits formatWord := by decide
  have hsame := format_isSome_eq_reserved hm r c
  rw [reservedPattern, symbolPattern, hbits]
  simp only [Option.or_assoc]
  cases hf : formatPattern (wordBits formatWord) true m r c with
  | some v => rfl
  | none =>
    rw [hf, Option.isSome_none, Option.isSome_eq_false_iff, Option.isNone_iff_eq_none] at hsame
    rw [hsame]
    rfl

theorem reservedPattern_isSome {m : Nat} (hm : m ∈ symbolSides) (sep : Separators) (r c : Nat) :
    (reservedPattern sep m r c).isSome = (symbolPattern sep m r c).isSome := by
  rw [← format_or_reservedPattern hm, Option.isSome_or, reservedPattern, Option.isSome_or,
    format_isSome_eq_reserved hm, ← Bool.or_assoc, Bool.or_self]

end Sys2Proof.Machine
end

section
/-! SUPPORT. GENERATE's pipeline in three memories (47_sequencer.md R288): the function cells reserved, the codeword
stream written, and the symbol placed, formatted and masked. -/

namespace Sys2Proof.Machine

open Sys2Proof.Claims

/-! ### The codeword stream -/

/-- The codewords of version v: the input's data codewords, then their parity (42_bitstream.md R142, 43_gf_rs.md R171). -/
def codewordStream (v : Nat) (s : State) : List Byte :=
  codewordsOf (symRow v).dataCw.toNat s.len s.payload ++
    rsEncode s.params.genMode (symRow v).eccCw.toNat (codewordsOf (symRow v).dataCw.toNat s.len s.payload)

/-- The versions of a nonempty symbol. -/
def symbolVersions : List Nat := [2, 3, 4, 5]

theorem symbolVersions_facts {v : Nat} (h : v ∈ symbolVersions) :
    (symRow v).consistent = true ∧ (symRow v).version ≠ 0#8 ∧ (VT v).capBits = 8 * (symRow v).dataCw.toNat ∧
    (VT v).dcw = (symRow v).dataCw.toNat ∧ (VT v).ecc = (symRow v).eccCw.toNat ∧ 1 ≤ (symRow v).eccCw.toNat ∧
    (symRow v).eccCw.toNat ≤ 26 ∧ (symRow v).dataCw.toNat + (symRow v).eccCw.toNat ≤ 256 := by
  revert v
  decide

theorem codewordStream_length {v : Nat} (h : v ∈ symbolVersions) (s : State) :
    (codewordStream v s).length = (symRow v).dataCw.toNat + (symRow v).eccCw.toNat := by
  obtain ⟨-, -, -, -, -, h1, h26, -⟩ := symbolVersions_facts h
  rw [codewordStream, List.length_append, codewordsOf_length, rsEncode_length _ h1 h26]

theorem Memory.setCwbuf_append (mem : Memory) (k : Nat) (front back : List Byte) :
    mem.setCwbuf k (front ++ back) = (mem.setCwbuf k front).setCwbuf (k + front.length) back := by
  have happend : ∀ (front : List Byte) (mem : Memory) (a : Nat),
      mem.writeBytes a (front ++ back) = (mem.writeBytes a front).writeBytes (a + front.length) back := by
    intro front
    induction front with
    | nil => exact fun _ _ => rfl
    | cons b front ih =>
      intro mem a
      rw [List.cons_append, writeBytes, ih, List.length_cons, Nat.add_right_comm, Nat.add_assoc]
      rfl
  exact (happend front mem _).trans (by rw [Nat.add_assoc]; rfl)

theorem codewords_congr {mem mem' : Memory} {L : Nat} (h : ∀ j, j < L → mem'.cwbuf j = mem.cwbuf j) :
    codewords mem' L = codewords mem L := List.map_congr_left fun j hj => h j (List.mem_range.1 hj)

/-- Bytes stored from CWBUF[0] are the codewords there. -/
theorem codewords_setCwbuf (mem : Memory) (bytes : List Byte) :
    codewords (mem.setCwbuf 0 bytes) bytes.length = bytes := by
  refine List.ext_getElem (by simp [codewords]) fun j hj hj' => ?_
  simp [codewords, Memory.cwbuf_setCwbuf, hj']

/-! ### The three memories -/

/-- After FINDER, TIMING, ALIGN and RSVFMT. -/
def reservedMemory (s : State) : Memory :=
  let finders := stampAll s.side s.mem ((finderCentres s.side).flatMap (finderStamps s.params.separators))
  stampAll s.side (stampAll s.side (timingLines s.side finders) (alignStamps s.side)) (fmtStamps s.side 0#15 false)

/-- After BITSTREAM and RSENC. -/
def codedMemory (v : Nat) (s : State) : Memory := (reservedMemory s).setCwbuf 0 (codewordStream v s)

/-- After PLACE, FORMAT and MASK. -/
def symbolMemory (s : State) (mem : Memory) : Memory :=
  maskGrid s.side (stampAll s.side (placeData s.side s.totalCw mem) (fmtStamps s.side formatWord true))

theorem cellStores_reservedMemory (s : State) : CellStores s.side s.mem (reservedMemory s) :=
  (((cellStores_stampAll _ _ _).trans (cellStores_timingLines _ _)).trans (cellStores_stampAll _ _ _)).trans
    (cellStores_stampAll _ _ _)

theorem cellStores_symbolMemory (s : State) (mem : Memory) : CellStores s.side mem (symbolMemory s mem) :=
  ((cellStores_placeData _ _ _).trans (cellStores_stampAll _ _ _)).trans (cellStores_maskGrid _ _)

theorem reservedMemory_payload (s : State) : (List.range s.len.toNat).map (reservedMemory s).inbuf = s.payload := by
  refine List.map_congr_left fun i hi => (cellStores_reservedMemory s).read_below ?_
  have := List.mem_range.1 hi
  have := s.len.isLt
  simp only [inbufBase]
  omega

/-- The stages of R288 as the three memories, one from the other. -/
theorem stagesMemory_eq {v : Nat} (hv : v ∈ symbolVersions) (s : State) :
    stagesMemory v s = symbolMemory s (codedMemory v s) := by
  obtain ⟨-, -, hcap, hdcw, hecc, -⟩ := symbolVersions_facts hv
  have hdata : streamBytes (VT v).capBits (bitStream (VT v).capBits s.len.toNat
      ((List.range s.len.toNat).map (reservedMemory s).inbuf)) = codewordsOf (VT v).dcw s.len s.payload := by
    rw [reservedMemory_payload, hcap, hdcw, streamBytes_bitStream]
  have hread := codewords_setCwbuf (reservedMemory s) (codewordsOf (VT v).dcw s.len s.payload)
  rw [codewordsOf_length] at hread
  have hstages : stagesMemory v s = symbolMemory s
      (((reservedMemory s).setCwbuf 0 (codewordsOf (VT v).dcw s.len s.payload)).setCwbuf (VT v).dcw
        (rsEncode s.params.genMode (VT v).ecc
          (codewords ((reservedMemory s).setCwbuf 0 (codewordsOf (VT v).dcw s.len s.payload)) (VT v).dcw))) := by
    rw [← hdata]
    rfl
  rw [hstages, hread, codedMemory, codewordStream, ← hdcw, ← hecc, Memory.setCwbuf_append, codewordsOf_length,
    Nat.zero_add]

end Sys2Proof.Machine
end

section
/-! SUPPORT. What GENERATE's stages leave from a state with version v (47_sequencer.md R288): the codeword stream, every
byte that is no cell's, and every cell. -/

namespace Sys2Proof.Machine

open Sys2Proof.Claims

/-- Cells outside the square are no stage's. -/
theorem stagesMemory_outside {v : Nat} (hv : v ∈ symbolVersions) {s : State} {r c : Nat}
    (hrc : s.side ≤ r ∨ s.side ≤ c) :
    (stagesMemory v s).dark r c = s.mem.dark r c ∧ (stagesMemory v s).func r c = s.mem.func r c := by
  obtain ⟨-, -, -, -, -, -, -, h256⟩ := symbolVersions_facts hv
  obtain ⟨hd1, hf1⟩ := (cellStores_reservedMemory s).outside hrc
  obtain ⟨hd2, hf2⟩ := (reservedMemory s).cells_setCwbuf (k := 0) (bytes := codewordStream v s)
    (by rw [codewordStream_length hv]; omega) r c
  obtain ⟨hd3, hf3⟩ := (cellStores_symbolMemory s (codedMemory v s)).outside hrc
  rw [stagesMemory_eq hv]
  exact ⟨hd3.trans (hd2.trans hd1), hf3.trans (hf2.trans hf1)⟩

section
variable {v : Nat} {s : State} (hv : v ∈ symbolVersions) (hrow : s.syminfo = symRow v)
include hv hrow

theorem hasVersion_of_row : HasVersion s := by
  obtain ⟨hcons, hver, -⟩ := symbolVersions_facts hv
  rw [HasVersion, hrow]
  exact ⟨hcons, hver⟩

/-- Off the grid the stages write the codeword stream and nothing else. -/
theorem stagesMemory_read {a : Nat} (ha : ¬ isCellAddr a) :
    (stagesMemory v s).read a = (s.mem.setCwbuf 0 (codewordStream v s)).read a := by
  obtain ⟨-, h37⟩ := side_bounds (hasVersion_of_row hv hrow)
  have hcell : ∀ {m0 m1 : Memory}, CellStores s.side m0 m1 → m1.read a = m0.read a := fun h =>
    h.read_of_ne fun r c hr hc e => ha ⟨r, c, by omega, by omega, e⟩
  rw [stagesMemory_eq hv, hcell (cellStores_symbolMemory s _), codedMemory, Memory.setCwbuf, Memory.setCwbuf,
    Memory.read_writeBytes, Memory.read_writeBytes, hcell (cellStores_reservedMemory s)]

section
variable (hclear : s.mem.HasGrid (fun _ _ => none) (fun _ _ => false))
include hclear

/-- On a cleared grid the reserved cells are function cells and every other cell is light. -/
theorem reservedMemory_hasGrid :
    (reservedMemory s).HasGrid (reservedPattern s.params.separators s.side) (fun _ _ => false) := by
  have hver := hasVersion_of_row hv hrow
  have hm := side_mem_symbolSides hver
  obtain ⟨h25, h37⟩ := side_bounds hver
  have hfinder := hclear.stamped (stamped_stampAll h37 (paints_finder h25 s.params.separators) s.mem)
  simp only [Option.or_none] at hfinder
  unfold reservedMemory
  extract_lets finders
  have htiming : Stamped (fun r c => if finders.func r c then none else timingPattern s.side r c) finders
      (timingLines s.side finders) := by
    rw [timingLines_eq_stampFree]
    exact stamped_stampFree h37 (paints_timing h25) finders
  have hall := ((hfinder.stamped htiming).stamped (stamped_stampAll h37 (paints_align h25) _)).stamped
    (stamped_stampAll h37 (paints_format hm 0#15 false) _)
  intro r c hr hc
  have hfunc : finders.func r c = (finderPattern s.params.separators s.side r c).isSome := (hfinder r c hr hc).1
  have hcell := hall r c hr hc
  simp only [hfunc, freeTiming_or_finder h25] at hcell
  exact hcell

theorem codedMemory_hasGrid :
    (codedMemory v s).HasGrid (reservedPattern s.params.separators s.side) (fun _ _ => false) := by
  obtain ⟨-, -, -, -, -, -, -, h256⟩ := symbolVersions_facts hv
  exact (reservedMemory_hasGrid hv hrow hclear).setCwbuf (by rw [codewordStream_length hv]; omega)

/-- The finished grid: the symbol's pattern over the placed values, masked. -/
theorem stagesMemory_hasGrid : (stagesMemory v s).HasGrid (symbolPattern s.params.separators s.side)
    (masked s.side (placeData s.side s.totalCw (codedMemory v s)).dark) := by
  have hver := hasVersion_of_row hv hrow
  have hm := side_mem_symbolSides hver
  have hplaced := (codedMemory_hasGrid hv hrow hclear).placeData s.side s.totalCw
  have hformat := hplaced.stamped (stamped_stampAll (side_bounds hver).2 (paints_format hm formatWord true) _)
  simp only [format_or_reservedPattern hm] at hformat
  rw [stagesMemory_eq hv]
  exact hformat.maskGrid s.side

/-- The function cells of the finished grid are those PLACE found. -/
theorem stagesMemory_func : (stagesMemory v s).func = (codedMemory v s).func := by
  have hm := side_mem_symbolSides (hasVersion_of_row hv hrow)
  refine func_eq_of_grid fun r c hr hc => ?_
  rw [(stagesMemory_hasGrid hv hrow hclear r c hr hc).1, (codedMemory_hasGrid hv hrow hclear r c hr hc).1,
    reservedPattern_isSome hm]

/-- The bits placed can be read off the finished symbol. -/
theorem placedBit_stagesMemory (p : Nat) : placedBit (stagesMemory v s) s.side s.totalCw p =
    placedBit (codedMemory v s) s.side s.totalCw p := by
  refine placedBit_congr (totalCw_le (hasVersion_of_row hv hrow)) (stagesMemory_func hv hrow hclear) (fun j hj => ?_) _ _
  rw [stagesMemory_eq hv]
  exact (cellStores_symbolMemory s _).cwbuf hj

/-- A visited data cell holds its bit, masked. -/
theorem stagesMemory_dark_visit {p r c : Nat} (hp : (zigzag s.side)[p]? = some (r, c))
    (hdata : symbolPattern s.params.separators s.side r c = none) : (stagesMemory v s).dark r c =
      (placedBit (stagesMemory v s) s.side s.totalCw p ^^ decide ((r + c) % 2 = 0)) := by
  have hver := hasVersion_of_row hv hrow
  obtain ⟨h25, h37⟩ := side_bounds hver
  have hlt := mem_zigzag_lt (List.mem_of_getElem? hp)
  dsimp only at hlt
  obtain ⟨hfunc, hdark⟩ := stagesMemory_hasGrid hv hrow hclear r c (by omega) (by omega)
  rw [hdata] at hfunc hdark
  rw [stagesMemory_func hv hrow hclear] at hfunc
  rw [hdark, Option.getD_none, masked_of_lt _ hlt.1 hlt.2, placedBit_stagesMemory hv hrow hclear,
    placeData_dark_visit (side_odd hver) (by omega) h37 (totalCw_le hver) hp hfunc]

/-- No visit reaches column 6, so its data cells hold the mask alone. -/
theorem stagesMemory_dark_columnSix {r : Nat} (hr : r < s.side)
    (hdata : symbolPattern s.params.separators s.side r 6 = none) :
    (stagesMemory v s).dark r 6 = decide ((r + 6) % 2 = 0) := by
  have hver := hasVersion_of_row hv hrow
  obtain ⟨h25, h37⟩ := side_bounds hver
  have hplaced : (placeData s.side s.totalCw (codedMemory v s)).dark r 6 = (codedMemory v s).dark r 6 := by
    refine (cell_of_read (placeData_read_of_ne (fun i j hij _ hadr => ?_) s.totalCw)).2
    have hj := (mem_zigzag_iff (side_odd hver) (by omega) i j).1 hij
    exact hj.2.2 (cellAddr_inj (by decide) (by omega) hadr).2.symm
  have hlight : (codedMemory v s).dark r 6 = false := by
    have hnone : reservedPattern s.params.separators s.side r 6 = none := by
      rw [← Option.not_isSome_iff_eq_none, reservedPattern_isSome (side_mem_symbolSides hver), hdata]
      decide
    rw [(codedMemory_hasGrid hv hrow hclear r 6 (by omega) (by decide)).2, hnone, Option.getD_none]
  rw [(stagesMemory_hasGrid hv hrow hclear r 6 (by omega) (by decide)).2, hdata, Option.getD_none,
    masked_of_lt _ hr (by omega), hplaced, hlight, Bool.false_xor]

end

end

end Sys2Proof.Machine
end

section
/-! SUPPORT. What GENERATE answers (47_sequencer.md R288, R289): the empty input, DATA_TOO_LARGE, and the symbol. -/

namespace Sys2Proof.Machine

open Sys2Proof.Claims

/-- GENERATE builds a symbol: the input is not empty, and it fits or is clipped (R124, R142). -/
def BuildsSymbol (s : State) : Prop := s.len ≠ 0#8 ∧ (s.params.oversize = .truncate ∨ s.len.toNat ≤ 106)

theorem tooLarge_selected_iff {s : State} (h : s.len.toNat ≠ 0) :
    tooLarge s (selectVersion s.len.toNat) = false ↔ s.params.oversize = .truncate ∨ s.len.toNat ≤ 106 := by
  rw [tooLarge_eq_false_iff, ← VT_capBits, ← not_lt, selected_overflows_iff h]
  refine or_congr_right ?_
  omega

theorem versionFor_mem {n : Nat} (h : n ≠ 0) : versionFor n ∈ symbolVersions := by
  rw [versionFor, if_neg h]
  split_ifs <;> decide

theorem len_toNat_ne {s : State} (h : s.len ≠ 0#8) : s.len.toNat ≠ 0 := fun e => h (BitVec.eq_of_toNat_eq e)

theorem exec_generate (s : State) : exec .generate s = .next (generateBody s).complete := rfl

/-- The empty input (R288). -/
theorem exec_generate_of_empty {s : State} (h : s.len = 0#8) : ∃ mem, GridCleared s.mem mem ∧
    exec .generate s = .next { completedOk s with syminfo := symRow 0, mem := mem } := by
  have hcleared := gridCleared_clearGrid s.mem
  rw [exec_generate, generateBody_empty (by rw [h]; rfl)]
  generalize clearGrid s.mem = mem at hcleared ⊢
  exact ⟨mem, hcleared, rfl⟩

/-- DATA_TOO_LARGE (R288). -/
theorem exec_generate_of_tooLarge {s : State} (hlen : s.len ≠ 0#8) (h : ¬ BuildsSymbol s) :
    ∃ mem, GridCleared s.mem mem ∧
      exec .generate s = .next { completedErr s .dataTooLarge with syminfo := symRow 0, mem := mem } := by
  have ht : tooLarge s (selectVersion s.len.toNat) = true := by
    rw [← Bool.not_eq_false, tooLarge_selected_iff (len_toNat_ne hlen)]
    exact fun hfit => h ⟨hlen, hfit⟩
  have hcleared := gridCleared_clearGrid s.mem
  rw [exec_generate, generateBody_tooLarge (len_toNat_ne hlen) ht]
  generalize clearGrid s.mem = mem at hcleared ⊢
  exact ⟨mem, hcleared, rfl⟩

/-- The state the stages begin with: the version selected, the grid cleared (R288). -/
def stagesStart (s : State) (cleared : Memory) : State :=
  { s with syminfo := symRow (versionFor s.len.toNat), mem := cleared }

/-- The state GENERATE leaves when it builds a symbol. -/
def generated (s : State) (cleared : Memory) : State :=
  { completedOk s with
    syminfo := symRow (versionFor s.len.toNat)
    mem := stagesMemory (versionFor s.len.toNat) (stagesStart s cleared) }

/-- The symbol (R288). -/
theorem exec_generate_of_builds {s : State} (h : BuildsSymbol s) :
    ∃ cleared, GridCleared s.mem cleared ∧ exec .generate s = .next (generated s cleared) := by
  obtain ⟨hlen, hfit⟩ := h
  have hne := len_toNat_ne hlen
  have hcleared := gridCleared_clearGrid s.mem
  have hrow : SymInfo.ofVersion (selectVersion s.len.toNat) = symRow (versionFor s.len.toNat) :=
    ofVersion_eq_symRow (selectVersion_mem _)
  rw [exec_generate, generateBody_ok hne ((tooLarge_selected_iff hne).2 hfit), hrow]
  generalize clearGrid s.mem = cleared at hcleared ⊢
  exact ⟨cleared, hcleared, rfl⟩

/-- The two ways GENERATE can leave SYMINFO and memory: no symbol on a cleared grid, or the symbol. -/
theorem generate_cases {s t : State} (ht : exec .generate s = .next t) :
    (¬ BuildsSymbol s ∧ t.syminfo = symRow 0 ∧ GridCleared s.mem t.mem) ∨
    (BuildsSymbol s ∧ ∃ cleared, GridCleared s.mem cleared ∧ t = generated s cleared) := by
  by_cases h : BuildsSymbol s
  · obtain ⟨cleared, hcleared, e⟩ := exec_generate_of_builds h
    exact .inr ⟨h, cleared, hcleared, Host.Outcome.next.inj (ht.symm.trans e)⟩
  · by_cases hlen : s.len = 0#8
    · obtain ⟨mem, hcleared, e⟩ := exec_generate_of_empty hlen
      obtain rfl := Host.Outcome.next.inj (ht.symm.trans e)
      exact .inl ⟨h, rfl, hcleared⟩
    · obtain ⟨mem, hcleared, e⟩ := exec_generate_of_tooLarge hlen h
      obtain rfl := Host.Outcome.next.inj (ht.symm.trans e)
      exact .inl ⟨h, rfl, hcleared⟩

/-! ### The bytes off the grid -/

/-- The buffers lie below the GRID window. -/
theorem not_isCellAddr_of_lt {a : Nat} (h : a < 0x1000) : ¬ isCellAddr a := by
  rintro ⟨r, c, -, -, rfl⟩
  omega

section
variable {s : State} {cleared : Memory} (hb : BuildsSymbol s) (hcleared : GridCleared s.mem cleared)
include hcleared

/-- Clearing the grid keeps INBUF. -/
theorem stagesStart_payload : (stagesStart s cleared).payload = s.payload := by
  refine List.map_congr_left fun i hi => hcleared.2 _ (not_isCellAddr_of_lt ?_)
  have hi' : i < s.len.toNat := List.mem_range.1 hi
  have := s.len.isLt
  simp only [inbufBase]
  omega

include hb

/-- Off the grid GENERATE writes the input's codeword stream and nothing else. -/
theorem generated_read {a : Nat} (ha : ¬ isCellAddr a) : (generated s cleared).mem.read a =
    (s.mem.setCwbuf 0 (codewordStream (versionFor s.len.toNat) s)).read a := by
  have hstream : codewordStream (versionFor s.len.toNat) (stagesStart s cleared) =
      codewordStream (versionFor s.len.toNat) s := by
    rw [codewordStream, stagesStart_payload hcleared]
    rfl
  rw [generated, stagesMemory_read (versionFor_mem (len_toNat_ne hb.1)) rfl ha, hstream, Memory.setCwbuf,
    Memory.setCwbuf, Memory.read_writeBytes, Memory.read_writeBytes]
  exact congrArg _ (hcleared.2 a ha)

theorem generated_cwbuf {j : Nat} (hj : j < 256) : (generated s cleared).mem.cwbuf j =
    (s.mem.setCwbuf 0 (codewordStream (versionFor s.len.toNat) s)).cwbuf j :=
  generated_read hb hcleared (not_isCellAddr_of_lt (by simp only [cwbufBase]; omega))

/-- CWBUF begins with the codeword stream. -/
theorem codewords_generated : codewords (generated s cleared).mem (codewordStream (versionFor s.len.toNat) s).length =
    codewordStream (versionFor s.len.toNat) s := by
  have hv := versionFor_mem (len_toNat_ne hb.1)
  obtain ⟨-, -, -, -, -, -, -, h256⟩ := symbolVersions_facts hv
  have hlength := codewordStream_length hv s
  rw [codewords_congr fun j hj => generated_cwbuf hb hcleared (by omega), codewords_setCwbuf]

theorem generated_cwbuf_stream {j : Nat}
    (hj : j < (symRow (versionFor s.len.toNat)).dataCw.toNat + (symRow (versionFor s.len.toNat)).eccCw.toNat) :
    (generated s cleared).mem.cwbuf j = (codewordStream (versionFor s.len.toNat) s).getD j 0#8 := by
  have hv := versionFor_mem (len_toNat_ne hb.1)
  obtain ⟨-, -, -, -, -, -, -, h256⟩ := symbolVersions_facts hv
  have hlength := codewordStream_length hv s
  rw [generated_cwbuf hb hcleared (by omega), Memory.cwbuf_setCwbuf, if_pos (by omega), Nat.sub_zero]

end

end Sys2Proof.Machine
end

section
/-! SUPPORT. The symbol GENERATE leaves, cell by cell (47_sequencer.md R288), and that its cells follow from its
codewords (R289). -/

namespace Sys2Proof.Machine

open Sys2Proof.Claims

/-- MODULE_COUNT of version v (R120). -/
def sideOf (v : Nat) : Nat := (symRow v).moduleCount.toNat

theorem sideOf_facts {v : Nat} (h : v ∈ symbolVersions) :
    sideOf v = 17 + 4 * (symRow v).version.toNat ∧ sideOf v % 2 = 1 ∧ 25 ≤ sideOf v ∧ sideOf v ≤ 37 := by
  revert v
  decide

/-- The codewords of version v, data and parity (R120). -/
def streamLength (v : Nat) : Nat := (symRow v).dataCw.toNat + (symRow v).eccCw.toNat

/-- The memory holds a finished symbol of version v: the function cells of the pattern with its values, the codeword
bits under the mask, and nothing outside the square. -/
structure HoldsSymbol (sep : Separators) (v : Nat) (mem : Memory) : Prop where
  func : ∀ r c, r < sideOf v → c < sideOf v → mem.func r c = (symbolPattern sep (sideOf v) r c).isSome
  function : ∀ r c b, r < sideOf v → c < sideOf v → symbolPattern sep (sideOf v) r c = some b → mem.dark r c = b
  visit : ∀ p r c, (zigzag (sideOf v))[p]? = some (r, c) → symbolPattern sep (sideOf v) r c = none →
    mem.dark r c = (placedBit mem (sideOf v) (streamLength v) p ^^ decide ((r + c) % 2 = 0))
  columnSix : ∀ r, r < sideOf v → symbolPattern sep (sideOf v) r 6 = none → mem.dark r 6 = decide ((r + 6) % 2 = 0)
  outside : ∀ r c, r < 37 → c < 37 → (sideOf v ≤ r ∨ sideOf v ≤ c) → mem.dark r c = false ∧ mem.func r c = false

theorem holdsSymbol_generated {s : State} (hb : BuildsSymbol s) {cleared : Memory}
    (hcleared : GridCleared s.mem cleared) :
    HoldsSymbol s.params.separators (versionFor s.len.toNat) (generated s cleared).mem := by
  have hv := versionFor_mem (len_toNat_ne hb.1)
  have hclear := hasGrid_of_gridCleared hcleared
  have hrow : (stagesStart s cleared).syminfo = symRow (versionFor s.len.toNat) := rfl
  obtain ⟨-, h37⟩ := side_bounds (hasVersion_of_row hv hrow)
  have hgrid := stagesMemory_hasGrid hv hrow hclear
  constructor
  case func => exact fun r c hr hc => (hgrid r c (hr.trans_le h37) (hc.trans_le h37)).1
  case function =>
    intro r c b hr hc hval
    have hdark := (hgrid r c (hr.trans_le h37) (hc.trans_le h37)).2
    have hcell : symbolPattern (stagesStart s cleared).params.separators (stagesStart s cleared).side r c = some b := hval
    rwa [hcell] at hdark
  case visit => exact fun p r c => stagesMemory_dark_visit hv hrow hclear
  case columnSix => exact fun r => stagesMemory_dark_columnSix hv hrow hclear
  case outside =>
    intro r c hr hc hrc
    obtain ⟨hd, hf⟩ := stagesMemory_outside hv hrc (s := stagesStart s cleared)
    obtain ⟨hd0, hf0⟩ := hcleared.1 r c hr hc
    exact ⟨hd.trans hd0, hf.trans hf0⟩

/-- A placed bit depends on ISFUNC and the t codewords of the stream (R251). -/
theorem placedBit_congr_stream {mem mem' : Memory} {t : Nat} (hf : mem'.func = mem.func)
    (hcw : ∀ j, j < t → mem'.cwbuf j = mem.cwbuf j) (m p : Nat) : placedBit mem' m t p = placedBit mem m t p := by
  rw [placedBit_eq, placedBit_eq, dataIndex, dataIndex, hf, Memory.bitOrZero, Memory.bitOrZero]
  split
  · rw [Memory.streamBit, Memory.streamBit, hcw _ (by omega)]
  · rfl

/-- The same cells. -/
def SameGrid (mem mem' : Memory) : Prop := ∀ r c, mem'.dark r c = mem.dark r c ∧ mem'.func r c = mem.func r c

/-- Cells the block does not have read 0 in both memories. -/
theorem sameGrid_of_backed {mem mem' : Memory}
    (h : ∀ r c, r < 37 → c < 37 → mem'.dark r c = mem.dark r c ∧ mem'.func r c = mem.func r c) :
    SameGrid mem mem' := by
  intro r c
  cases hb : backed r c with
  | true =>
    obtain ⟨hr, hc⟩ := (backed_iff r c).1 hb
    exact h r c hr hc
  | false => simp only [Memory.dark_of_not_backed _ hb, Memory.func_of_not_backed _ hb, and_self]

theorem sameGrid_of_gridCleared {m0 m1 m0' m1' : Memory} (h : GridCleared m0 m1) (h' : GridCleared m0' m1') :
    SameGrid m1 m1' := sameGrid_of_backed fun r c hr hc => by
  obtain ⟨hd, hf⟩ := h.1 r c hr hc
  obtain ⟨hd', hf'⟩ := h'.1 r c hr hc
  exact ⟨hd'.trans hd.symm, hf'.trans hf.symm⟩

section
variable {sep : Separators} {v : Nat} (hv : v ∈ symbolVersions) {mem mem' : Memory} (h : HoldsSymbol sep v mem)
  (h' : HoldsSymbol sep v mem')
include h h'

theorem HoldsSymbol.func_eq : mem'.func = mem.func := by
  refine func_eq_of_grid fun r c hr hc => ?_
  by_cases hin : r < sideOf v ∧ c < sideOf v
  · exact (h'.func r c hin.1 hin.2).trans (h.func r c hin.1 hin.2).symm
  · exact (h'.outside r c hr hc (by omega)).2.trans (h.outside r c hr hc (by omega)).2.symm

include hv

/-- Two symbols of one version with the same codewords are the same grid. -/
theorem HoldsSymbol.sameGrid (hcw : ∀ j, j < streamLength v → mem'.cwbuf j = mem.cwbuf j) : SameGrid mem mem' := by
  obtain ⟨-, hodd, h25, -⟩ := sideOf_facts hv
  have hfunc := h.func_eq h'
  refine sameGrid_of_backed fun r c hr hc => ⟨?_, congrFun₂ hfunc r c⟩
  by_cases hin : r < sideOf v ∧ c < sideOf v
  case neg => exact (h'.outside r c hr hc (by omega)).1.trans (h.outside r c hr hc (by omega)).1.symm
  case pos =>
    cases hcell : symbolPattern sep (sideOf v) r c with
    | some b => exact (h'.function r c b hin.1 hin.2 hcell).trans (h.function r c b hin.1 hin.2 hcell).symm
    | none =>
      by_cases h6 : c = 6
      · subst h6
        exact (h'.columnSix r hin.1 hcell).trans (h.columnSix r hin.1 hcell).symm
      · have hvisit : (r, c) ∈ zigzag (sideOf v) := (mem_zigzag_iff hodd (by omega) r c).2 ⟨hin.1, hin.2, h6⟩
        obtain ⟨p, hp⟩ := List.mem_iff_getElem?.1 hvisit
        rw [h.visit p r c hp hcell, h'.visit p r c hp hcell, placedBit_congr_stream hfunc hcw]

end

end Sys2Proof.Machine
end

section
/-! SUPPORT. Two runs of GENERATE on the same LEN, INBUF[0..LEN-1] and parameters (47_sequencer.md R289). -/

namespace Sys2Proof.Machine

open Sys2Proof.Claims

/-- LASTERR tells whether the command raised an error (R282). -/
theorem lasterr_of_exec {i : Instr} (hi : i ≠ .softreset) {s t : State} (ht : exec i s = .next t) :
    t.status.lasterr = (errorOf i s).isSome := by
  obtain ⟨r, hexec, herr, -⟩ := exec_ends hi s
  obtain rfl := Host.Outcome.next.inj (ht.symm.trans hexec)
  rw [CmdResult.complete_status, herr]
  cases errorOf i s <;> rfl

/-- The input GENERATE reads, and the parameters, are the same (R289). -/
structure SameInput (s s' : State) : Prop where
  len : s'.len = s.len
  params : s'.params = s.params
  inbuf : ∀ i, i < s.len.toNat → s'.mem.inbuf i = s.mem.inbuf i

section
variable {s s' : State} (h : SameInput s s')
include h

theorem SameInput.payload : s'.payload = s.payload := by
  rw [State.payload, h.len]
  exact List.map_congr_left fun i hi => h.inbuf i (List.mem_range.1 hi)

theorem SameInput.codewordStream (v : Nat) : codewordStream v s' = codewordStream v s := by
  rw [Machine.codewordStream, Machine.codewordStream, h.payload, h.len, h.params]

theorem SameInput.errorOf_generate : errorOf .generate s' = errorOf .generate s := by
  rw [errorOf, errorOf, oversized, oversized, h.len, h.params]

theorem SameInput.buildsSymbol : BuildsSymbol s' ↔ BuildsSymbol s := by
  rw [BuildsSymbol, BuildsSymbol, h.len, h.params]

section
variable (hb : BuildsSymbol s) {cleared cleared' : Memory} (hcleared : GridCleared s.mem cleared)
  (hcleared' : GridCleared s'.mem cleared')
include hb hcleared hcleared'

theorem SameInput.generated_cwbuf {j : Nat} (hj : j < streamLength (versionFor s.len.toNat)) :
    (generated s' cleared').mem.cwbuf j = (generated s cleared).mem.cwbuf j := by
  rw [generated_cwbuf_stream hb hcleared hj,
    generated_cwbuf_stream (h.buildsSymbol.2 hb) hcleared' (by rwa [h.len]), h.len, h.codewordStream]

theorem SameInput.generated_sameGrid : SameGrid (generated s cleared).mem (generated s' cleared').mem := by
  have hsymbol' := holdsSymbol_generated (h.buildsSymbol.2 hb) hcleared'
  rw [h.len, h.params] at hsymbol'
  exact (holdsSymbol_generated hb hcleared).sameGrid (versionFor_mem (len_toNat_ne hb.1)) hsymbol'
    fun _ => h.generated_cwbuf hb hcleared hcleared'

end

/-- Both runs build the symbol or neither does, and they leave the same SYMINFO, grid and codewords. -/
theorem SameInput.generate {t t' : State} (ht : exec .generate s = .next t) (ht' : exec .generate s' = .next t') :
    t'.syminfo = t.syminfo ∧ SameGrid t.mem t'.mem ∧
      ∀ j, j < t.syminfo.dataCw.toNat + t.syminfo.eccCw.toNat → t'.mem.cwbuf j = t.mem.cwbuf j := by
  rcases generate_cases ht with ⟨hb, hrow, hcleared⟩ | ⟨hb, cleared, hcleared, rfl⟩ <;>
    rcases generate_cases ht' with ⟨hb', hrow', hcleared'⟩ | ⟨hb', cleared', hcleared', rfl⟩
  · rw [hrow, hrow']
    exact ⟨rfl, sameGrid_of_gridCleared hcleared hcleared', fun j hj => absurd hj (Nat.not_lt_zero j)⟩
  · exact absurd (h.buildsSymbol.1 hb') hb
  · exact absurd (h.buildsSymbol.2 hb) hb'
  · have hsyminfo : (generated s' cleared').syminfo = (generated s cleared).syminfo :=
      congrArg (fun n : Byte => symRow (versionFor n.toNat)) h.len
    exact ⟨hsyminfo, h.generated_sameGrid hb hcleared hcleared', fun _ => h.generated_cwbuf hb hcleared hcleared'⟩

end

/-- CWBUF past the codeword stream is kept, and without a symbol all of it. -/
theorem generate_cwbuf_of_le {s t : State} (ht : exec .generate s = .next t) {j : Nat}
    (hj : t.syminfo.dataCw.toNat + t.syminfo.eccCw.toNat ≤ j) (h256 : j < 256) : t.mem.cwbuf j = s.mem.cwbuf j := by
  rcases generate_cases ht with ⟨-, -, hcleared⟩ | ⟨hb, cleared, hcleared, rfl⟩
  · exact hcleared.2 _ (not_isCellAddr_of_lt (by simp only [cwbufBase]; omega))
  · have hlength := codewordStream_length (versionFor_mem (len_toNat_ne hb.1)) s
    have hout : (codewordStream (versionFor s.len.toNat) s).length ≤ j := hlength.trans_le hj
    rw [generated_cwbuf hb hcleared h256, Memory.cwbuf_setCwbuf, if_neg (by omega)]

end Sys2Proof.Machine
end

section
/-! The statements of the sequencer's family about GENERATE, settled. -/

namespace Sys2Proof.Machine

open Sys2Proof.Claims

/-- Settles O39. -/
theorem generateOfEmptyInput : Obligations.GenerateOfEmptyInput := by
  unfold Obligations.GenerateOfEmptyInput
  intro s hlen
  obtain ⟨mem, hcleared, e⟩ := exec_generate_of_empty hlen
  exact ⟨_, e, hcleared, rfl⟩

/-- Settles O40: off the grid the codeword stream is all that GENERATE writes. -/
theorem generateCompletesWithItsVersion : Obligations.GenerateCompletesWithItsVersion := by
  unfold Obligations.GenerateCompletesWithItsVersion
  intro s hlen hfit
  have hb : BuildsSymbol s := ⟨hlen, hfit⟩
  obtain ⟨cleared, hcleared, e⟩ := exec_generate_of_builds hb
  refine ⟨_, e, rfl, fun a ha hout => ?_⟩
  rw [generated_read hb hcleared ha]
  refine Memory.read_setCwbuf_out _ _ _ ?_
  rw [codewordStream_length (versionFor_mem (len_toNat_ne hlen))]
  omega

/-- Settles O43: the stream is BITSTREAM's codewords and RSENC's parity. -/
theorem generateLeavesAValidCodewordStream : Obligations.GenerateLeavesAValidCodewordStream := by
  unfold Obligations.GenerateLeavesAValidCodewordStream
  intro s t hlen hfit ht
  have hb : BuildsSymbol s := ⟨hlen, .inr hfit⟩
  have hv := versionFor_mem (len_toNat_ne hlen)
  obtain ⟨-, -, -, -, -, h1, h26, -⟩ := symbolVersions_facts hv
  obtain ⟨cleared, hcleared, e⟩ := exec_generate_of_builds hb
  obtain rfl := Host.Outcome.next.inj (ht.symm.trans e)
  refine ⟨fun j hj => ?_, fun hrow => ?_⟩
  · rw [generated_cwbuf_stream hb hcleared (by omega), codewordStream,
      List.getD_append _ _ _ _ (by rwa [codewordsOf_length])]
    exact codewordsOf_eq_streamClosed s hj
  · rw [← codewordStream_length hv s, codewords_generated hb hcleared]
    exact syndromesVanish_append_rsEncode h1 h26 hrow _

/-- Settles O44: the grid the stages leave, cell by cell. -/
theorem generateBuildsTheMaskedSymbol : Obligations.GenerateBuildsTheMaskedSymbol := by
  unfold Obligations.GenerateBuildsTheMaskedSymbol
  intro s t hlen hfit ht
  have hb : BuildsSymbol s := ⟨hlen, hfit⟩
  obtain ⟨cleared, hcleared, e⟩ := exec_generate_of_builds hb
  obtain rfl := Host.Outcome.next.inj (ht.symm.trans e)
  have h := holdsSymbol_generated hb hcleared
  exact ⟨h.func, h.function, h.visit, h.columnSix, h.outside⟩

/-- Settles O42: the codewords are a function of the input, and the symbol of the codewords. -/
theorem generateDependsOnItsInputOnly : Obligations.GenerateDependsOnItsInputOnly := by
  unfold Obligations.GenerateDependsOnItsInputOnly
  refine ⟨fun s s' t t' hlen hparams hin ht ht' => ?_, fun s t ht => ⟨fun j => generate_cwbuf_of_le ht, fun hver => ?_⟩⟩
  · have h : SameInput s s' := ⟨hlen, hparams, hin⟩
    obtain ⟨hsyminfo, hgrid, hcw⟩ := h.generate ht ht'
    refine ⟨hsyminfo, ?_, hgrid, hcw⟩
    rw [lasterr_of_exec (by decide) ht, lasterr_of_exec (by decide) ht', h.errorOf_generate]
  · rcases generate_cases ht with ⟨-, hrow, -⟩ | ⟨hb, cleared, -, rfl⟩
    · exact absurd (congrArg SymInfo.version hrow) hver
    · obtain ⟨hside, hodd, -, -⟩ := sideOf_facts (versionFor_mem (len_toNat_ne hb.1))
      exact ⟨hside, hodd⟩

end Sys2Proof.Machine
end

section
/-! SUPPORT. The state a command leaves when it raises an error (60_exceptions.md R311, R312). -/

namespace Sys2Proof.Machine

open Sys2Proof.Claims

/-- Only GENERATE can both write something besides STATUS and CUR_CMD and raise an error: in every other case of
`Leaves` with LASTERR set the pseudocode stopped before it wrote anything (R312). -/
theorem Leaves.eq_of_lasterr {i : Instr} {s t : State} (h : Leaves s i t) (hi : i ≠ .generate)
    (herr : t.status.lasterr = true) : t = { s with status := t.status, curCmd := none } := by
  cases h with
  | raised => rfl
  | generate => exact absurd rfl hi
  | nop | clrerr | softreset | version | result | codewords | cells | cleargrid => exact nomatch herr

/-- A command that raises completes with the STATUS of R282. -/
theorem exec_of_errorOf {i : Instr} {s : State} {e : Err} (h : errorOf i s = some e) :
    ∃ t, exec i s = .next t ∧ t.status = failedStatus s e := by
  have hi : i ≠ .softreset := by
    rintro rfl
    cases h
  obtain ⟨r, hexec, herr, hstatus⟩ := exec_ends hi s
  refine ⟨_, hexec, ?_⟩
  rw [CmdResult.complete_status, herr, hstatus, h, bodyStatus_complete_some h]

/-- A command other than GENERATE that raises writes STATUS only (R312). -/
theorem exec_eq_completedErr {i : Instr} {s : State} {e : Err} (hi : i ≠ .generate) (h : errorOf i s = some e) :
    exec i s = .next (completedErr s e) := by
  obtain ⟨t, hexec, hstatus⟩ := exec_of_errorOf h
  have ht := (leaves_of_exec hexec).eq_of_lasterr hi (congrArg Status.lasterr hstatus)
  rw [hexec, ht, hstatus, completedErr]

/-- GENERATE raises DATA_TOO_LARGE only, and only for a nonempty input it does not build (R288). -/
theorem errorOf_generate_some {s : State} {e : Err} (h : errorOf .generate s = some e) :
    e = .dataTooLarge ∧ s.len ≠ 0#8 ∧ ¬ BuildsSymbol s := by
  obtain ⟨⟨hlen, hover⟩, he⟩ := Option.ite_none_right_eq_some.1 h
  refine ⟨(Option.some.inj he).symm, hlen, fun hb => ?_⟩
  have hfits := (tooLarge_selected_iff (len_toNat_ne hlen)).2 hb.2
  rw [tooLarge_eq_oversized, selectVersion_eq_versionFor, hover] at hfits
  cases hfits

end Sys2Proof.Machine
end

section
/-! The statement of the exceptions' family about what an error leaves written, settled. -/

namespace Sys2Proof.Machine

open Sys2Proof.Claims

/-- Settles O8: a pseudocode that raises has written nothing, except GENERATE's, which has cleared the grid. -/
theorem erringCommandsWriteOnlyStatus : Obligations.ErringCommandsWriteOnlyStatus := by
  unfold Obligations.ErringCommandsWriteOnlyStatus
  refine ⟨fun i s e => exec_eq_completedErr, fun s e h => ?_, fun s w e => coreTurn_of_illegal, fun s e => rfl⟩
  obtain ⟨rfl, hlen, hnot⟩ := errorOf_generate_some h
  obtain ⟨mem, hcleared, hexec⟩ := exec_generate_of_tooLarge hlen hnot
  exact ⟨rfl, _, hexec, hcleared, rfl⟩

end Sys2Proof.Machine
end

section
/-! SUPPORT. GENERATE's stages run as separate commands (47_sequencer.md R288, 70_reset_and_hazards.md R345): each stage
completes, and the eleven of them leave the memory of GENERATE's own stages. -/

namespace Sys2Proof.Machine

open Sys2Proof.Claims

theorem runAll_append {is js : List Instr} {s t : State} (h : runAll is s = some t) :
    runAll (is ++ js) s = runAll js t := by
  induction is generalizing s with
  | nil => rw [Option.some.inj h, List.nil_append]
  | cons i is ih =>
    obtain ⟨u, hu, -⟩ := exec_leaves i s
    rw [runAll_cons hu] at h
    rw [List.cons_append, runAll_cons hu, ih h]

/-- BITSTREAM without an error, as an equation for the whole state (R142). -/
theorem exec_bitstream_eq {s : State} (hv : s.syminfo.version ≠ 0#8)
    (ht : tooLarge s s.syminfo.version.toNat = false) : exec .bitstream s = .next { completedOk s with
      mem := s.mem.setCwbuf 0 (codewordsOf (capacity s.syminfo.version.toNat / 8) s.len s.payload) } := by
  have hexec : exec .bitstream s = completes (bitstreamBody s) := rfl
  have hstream := streamBytes_bitStream (capacity s.syminfo.version.toNat / 8) s.len s.payload
  rw [← capacity_eq_codewords] at hstream
  rw [hexec, bitstreamBody_ok hv ht, ← hstream, ← VT_capBits]
  rfl

/-- CLEARGRID and SELVER leave the state GENERATE's stages begin with (R288). -/
theorem runAll_clearing (s : State) :
    runAll [.cleargrid, .selver] s = some (completedOk (stagesStart s (clearGrid s.mem))) := by
  rw [runAll_cons (exec_cleargrid s), runAll_cons (exec_selver _)]
  generalize clearGrid s.mem = cleared
  rfl

theorem runAll_reserving {s : State} (h : HasVersion s) :
    runAll [.finder, .timing, .align, .rsvfmt] s = some { completedOk s with mem := reservedMemory s } := by
  rw [runAll_cons (exec_finder h), runAll_cons (exec_timing ?_), runAll_cons (exec_align ?_),
    runAll_cons (exec_rsvfmt ?_)]
  · rfl
  all_goals exact h

theorem runAll_drawing {s : State} (h : HasVersion s) :
    runAll [.place, .format, .mask] s = some { completedOk s with mem := symbolMemory s s.mem } := by
  rw [runAll_cons (exec_place h), runAll_cons (exec_format ?_), runAll_cons (exec_mask ?_)]
  · rfl
  all_goals exact h

theorem symRow_version_toNat {v : Nat} (h : v ∈ symbolVersions) : (symRow v).version.toNat = v := by
  revert v
  decide

section
variable {v : Nat} {s : State} (hv : v ∈ symbolVersions) (hrow : s.syminfo = symRow v) (ht : tooLarge s v = false)
include hv hrow ht

/-- BITSTREAM and RSENC write the codeword stream: RSENC reads the codewords BITSTREAM has just stored. -/
theorem runAll_coding : runAll [.bitstream, .rsenc (symRow v).eccCw (symRow v).dataCw] s =
    some { completedOk s with mem := s.mem.setCwbuf 0 (codewordStream v s) } := by
  obtain ⟨-, hver, hcap, -, -, h1, h26, h256⟩ := symbolVersions_facts hv
  have hversion : s.syminfo.version.toNat = v := by rw [hrow, symRow_version_toNat hv]
  have hdata : capacity s.syminfo.version.toNat / 8 = (symRow v).dataCw.toNat := by
    rw [hversion, ← VT_capBits, hcap, Nat.mul_div_cancel_left _ (by decide)]
  have hbits := exec_bitstream_eq (s := s) (by rwa [hrow]) (by rwa [hversion])
  rw [hdata] at hbits
  have hread := codewords_setCwbuf s.mem (codewordsOf (symRow v).dataCw.toNat s.len s.payload)
  rw [codewordsOf_length] at hread
  rw [runAll_cons hbits, runAll_cons (exec_rsenc h1 h26 h256 _), rsencLeaves, hread, codewordStream,
    Memory.setCwbuf_append, codewordsOf_length, Nat.zero_add]
  rfl

/-- The nine stages that GENERATE runs once the version is selected (R288). -/
theorem runAll_stages : runAll ([.finder, .timing, .align, .rsvfmt] ++
      ([.bitstream, .rsenc (symRow v).eccCw (symRow v).dataCw] ++ [.place, .format, .mask])) s =
    some { completedOk s with mem := stagesMemory v s } := by
  have hversion := hasVersion_of_row hv hrow
  have hsame : SameInput s { completedOk s with mem := reservedMemory s } :=
    ⟨rfl, rfl, fun i hi => (cellStores_reservedMemory s).read_below (by
      have := s.len.isLt
      simp only [inbufBase]
      omega)⟩
  have hcoding := runAll_coding (s := { completedOk s with mem := reservedMemory s }) hv hrow ht
  rw [hsame.codewordStream] at hcoding
  rw [runAll_append (runAll_reserving hversion), runAll_append hcoding, stagesMemory_eq hv]
  exact runAll_drawing (s := { completedOk s with mem := codedMemory v s }) hversion

end

theorem BuildsSymbol.tooLarge_eq_false {s : State} (h : BuildsSymbol s) :
    tooLarge s (selectVersion s.len.toNat) = false := (tooLarge_selected_iff (len_toNat_ne h.1)).2 h.2

/-- The state GENERATE leaves, its cleared grid the very memory that CLEARGRID leaves (R288). -/
theorem exec_generate_eq {s : State} (h : BuildsSymbol s) :
    exec .generate s = .next (generated s (clearGrid s.mem)) := by
  have hrow : SymInfo.ofVersion (selectVersion s.len.toNat) = symRow (versionFor s.len.toNat) :=
    ofVersion_eq_symRow (selectVersion_mem _)
  rw [exec_generate, generateBody_ok (len_toNat_ne h.1) h.tooLarge_eq_false, hrow]
  generalize clearGrid s.mem = cleared
  rfl

theorem runAll_stagesByHand {s : State} (h : BuildsSymbol s) :
    runAll (stagesByHand (versionFor s.len.toNat)) s = some (generated s (clearGrid s.mem)) := by
  refine (runAll_append (runAll_clearing s)).trans ?_
  generalize clearGrid s.mem = cleared
  exact runAll_stages (s := completedOk (stagesStart s cleared)) (versionFor_mem (len_toNat_ne h.1)) rfl
    h.tooLarge_eq_false

end Sys2Proof.Machine
end

section
/-! SUPPORT. The reset event (70_reset_and_hazards.md R340, R341), and that a running command completes (R353). -/

namespace Sys2Proof.Machine

open Sys2Proof.Claims

/-! ### Reset -/

theorem step_of_reset {s : State} {ib cb : Vector Byte 256} {es : List Event} (h : s.events = .reset ib cb :: es) :
    step s = .next (resetEvent ib cb { s with events := es }) := by
  rw [step, State.popEvent, h]
  rfl

section
variable (ib cb : Vector Byte 256)

/-- The two buffers filled one after the other do not overlap. -/
theorem read_resetMemory (a : Nat) : (resetMemory ib cb).read a =
    if 0x200 ≤ a ∧ a < 0x300 then cb.toList.getD (a - 0x200) 0#8
    else if 0x100 ≤ a ∧ a < 0x200 then ib.toList.getD (a - 0x100) 0#8 else 0#8 := by
  rw [resetMemory, Memory.read_writeBytes, Memory.read_writeBytes, Vector.length_toList, Vector.length_toList]
  rfl

theorem inbuf_resetMemory {i : Nat} (h : i < 256) : (resetMemory ib cb).inbuf i = ib[i] := by
  rw [Memory.inbuf, read_resetMemory, if_neg (by simp only [inbufBase]; omega),
    if_pos (by simp only [inbufBase]; omega), Nat.add_sub_cancel_left]
  simp [h]

theorem cwbuf_resetMemory {i : Nat} (h : i < 256) : (resetMemory ib cb).cwbuf i = cb[i] := by
  rw [Memory.cwbuf, read_resetMemory, if_pos (by simp only [cwbufBase]; omega), Nat.add_sub_cancel_left]
  simp [h]

theorem cell_resetMemory (r c : Nat) :
    (resetMemory ib cb).dark r c = false ∧ (resetMemory ib cb).func r c = false := by
  have hread : (resetMemory ib cb).read (cellAddr r c) = 0#8 := by
    rw [read_resetMemory, if_neg (by simp only [cellAddr, gridBase]; omega),
      if_neg (by simp only [cellAddr, gridBase]; omega)]
  simp [Memory.dark, Memory.func, hread]

end

/-! ### Completion -/

theorem Leaves.state_ne_generating {s t : State} {i : Instr} (h : Leaves s i t) : t.status.state ≠ .generating := by
  cases h with
  | softreset => exact nofun
  | _ => simp

/-- The core's turn leaves no command running (R281). -/
theorem coreTurn_state_ne_generating {s t : State} (h : coreTurn s = .next t) : t.status.state ≠ .generating := by
  rcases coreTurn_cases s with ⟨hs, e⟩ | ⟨-, -, e⟩ | ⟨-, -, -, -, -, e⟩ | ⟨-, i, -, -, -, e⟩ <;> rw [e] at h
  · exact Host.Outcome.next.inj h ▸ hs
  · cases h
  · exact Host.Outcome.next.inj h ▸ (Leaves.raised .nop Err.illegalCmd).state_ne_generating
  · exact (leaves_of_exec h).state_ne_generating

theorem core_run_succ {s t : State} (h : step s = .next t) (k : Nat) :
    Sys2Proof.core.run (k + 1) s = Sys2Proof.core.run k t := by
  simp only [Host.Core.run, Sys2Proof.core, h]

/-- Within n steps no command runs and none is latched. -/
def CompletesWithin (n : Nat) (s : State) : Prop :=
  ∃ k t, k ≤ n ∧ Sys2Proof.core.run k s = .next t ∧ t.status.state ≠ .generating ∧ t.curCmd = none

theorem completesWithin_zero {s : State} (h : Inv s) (hs : s.status.state ≠ .generating) : CompletesWithin 0 s :=
  ⟨0, s, le_rfl, rfl, hs, h.curCmd_eq_none hs⟩

theorem CompletesWithin.mono {m n : Nat} {s : State} (h : CompletesWithin m s) (hmn : m ≤ n) : CompletesWithin n s := by
  obtain ⟨k, t, hk, hrest⟩ := h
  exact ⟨k, t, hk.trans hmn, hrest⟩

theorem CompletesWithin.of_step {n : Nat} {s t : State} (hstep : step s = .next t) (h : CompletesWithin n t) :
    CompletesWithin (n + 1) s := by
  obtain ⟨k, u, hk, hrun, hrest⟩ := h
  exact ⟨k + 1, u, Nat.succ_le_succ hk, (core_run_succ hstep k).trans hrun, hrest⟩

/-- A step that is the core's turn completes what is running. -/
theorem completesWithin_of_coreTurn {s u : State} (h : Inv s) (hu : Inv u) (hstep : step s = coreTurn u) :
    CompletesWithin 1 s := by
  obtain ⟨t, ht⟩ := coreTurn_answers hu
  have hnext : step s = .next t := hstep.trans ht
  exact .of_step hnext (completesWithin_zero (h.step hnext) (coreTurn_state_ne_generating ht))

/-- A running command outlives the host's accesses, one event each, and ends with the core's turn (R353). -/
theorem completesWithin_of_generating {s : State} (h : Inv s) (hs : s.status.state = .generating) {es : List Event}
    (he : s.events = es) (hes : ∀ e ∈ es, ∃ a, e = .host a ∨ e = .core) : CompletesWithin (es.length + 1) s := by
  induction es generalizing s with
  | nil => exact completesWithin_of_coreTurn h h (step_of_nil he)
  | cons e es ih =>
    obtain ⟨⟨a, rfl | rfl⟩, hrest⟩ := List.forall_mem_cons.1 hes
    · obtain ⟨r, n, o, hkept⟩ := hostAccess_of_generating (s := { s with events := es }) hs a
      have hnext := step_of_host he
      have hinv := h.step hnext
      rw [hkept] at hnext hinv
      exact .of_step hnext (ih hinv hs rfl hrest)
    · exact (completesWithin_of_coreTurn h (h.withEvents es) (step_of_core he)).mono (Nat.le_add_left 1 _)

end Sys2Proof.Machine
end

section
/-! The statements of the family of reset and hazards, settled. -/

namespace Sys2Proof.Machine

open Sys2Proof.Claims

/-- Settles O41: by hand and in GENERATE the stages leave the same memory, and each completion writes the same STATUS. -/
theorem generateEqualsItsStagesByHand : Obligations.GenerateEqualsItsStagesByHand := by
  unfold Obligations.GenerateEqualsItsStagesByHand
  intro s t hlen hfit ht
  have hb : BuildsSymbol s := ⟨hlen, hfit⟩
  obtain rfl := Host.Outcome.next.inj (ht.symm.trans (exec_generate_eq hb))
  exact runAll_stagesByHand hb

/-- Settles O52. -/
theorem resetEventGivesTheResetValues : Obligations.ResetEventGivesTheResetValues := by
  unfold Obligations.ResetEventGivesTheResetValues
  intro s ib cb es he
  exact ⟨_, step_of_reset he, rfl, rfl, rfl, rfl, rfl, rfl, cell_resetMemory ib cb,
    fun i h => ⟨inbuf_resetMemory ib cb h, cwbuf_resetMemory ib cb h⟩, rfl, rfl, rfl⟩

/-- Settles O56, by induction on the events to come. -/
theorem acceptedCommandsComplete : Obligations.AcceptedCommandsComplete := by
  unfold Obligations.AcceptedCommandsComplete
  intro s h hs hes
  exact completesWithin_of_generating h hs rfl hes

end Sys2Proof.Machine
end
